-- ==== Sys2Proof/Word.lean ====
section
/-! DEFINITION. The bit-vector types of the command port: whole words, bytes and 16-bit operands (00_scope.md R9,
30_encoding.md R60). -/

namespace Sys2Proof

/-- A command word, a response word or an output word: 32 bits (10_state.md R33). -/
abbrev Word := BitVec 32

/-- An unsigned 8-bit operand, `u8` (00_scope.md R9). -/
abbrev Byte := BitVec 8

/-- A 16-bit operand: an unsigned rate, count or bend (`u16`), or a raw parameter value read in two's complement
(`int16`) (00_scope.md R9, 30_encoding.md R61). -/
abbrev Half := BitVec 16

end Sys2Proof
end

