-- ==== Sys2Proof/Config.lean ====
section
/-! DEFINITION. What the spec leaves OPEN as a value (00_scope.md R6): constants without a body, so that nothing in
Lean can evaluate them and every theorem holds for all their values. The two other OPEN rows of R6 are arguments:
`Arith` is the record `Sys2Proof.Machine.Arith` that the whole block takes, and `NoiseSource` is the stream that gives
the noise draws their values (`Sys2Proof.Machine.Signal.value`). -/

namespace Sys2Proof

/-- The raw parameter values at construction, `DefaultParams : Fin 22 → Int16`. "A model must not give it a value"
(70_reset_and_hazards.md R282). DESIGN CHOICE, log entry 2. -/
opaque Config.defaultParams : Fin 22 → Half

/-- The preset ROM, `PresetTable : Fin 5 → Fin 22 → Int16` (10_state.md R30). DESIGN CHOICE, log entry 4. -/
opaque Config.presetTable : Fin 5 → Fin 22 → Half

/-- The waveform display texts, `WaveName : Fin 5 → String` (45_parameters_presets.md R187). Display only. DESIGN
CHOICE, log entry 5. -/
opaque Config.waveName : Fin 5 → String

end Sys2Proof
end

