-- ==== Sys2Proof/Syntax.lean ====
section
/-! DEFINITION. The commands (30_encoding.md R62) and the assembler's lines (R68, R69), as data. -/

namespace Sys2Proof

/-- The 17 commands of 30_encoding.md R62, one constructor per row of the opcode table. An operand has exactly the
width of its field (R61), and "every operand value is legal" (R65), so every value of this type is a legal command. -/
inductive Instr where
  /-- INIT, 47_lifecycle.md R230: the channel count and the sample rate in Hz. -/
  | init (channels : Byte) (rate : Half)
  /-- RESET, 47_lifecycle.md R232. -/
  | reset
  /-- TEARDOWN, 47_lifecycle.md R233. -/
  | teardown
  /-- SUSPEND, 47_lifecycle.md R234. -/
  | suspend
  /-- RESUME, 47_lifecycle.md R235. -/
  | resume
  /-- SETP, 45_parameters_presets.md R181: a parameter index and its raw value (two's complement). -/
  | setp (index : Byte) (value : Half)
  /-- GETP, 45_parameters_presets.md R182: a parameter index. -/
  | getp (index : Byte)
  /-- GETSTR, 45_parameters_presets.md R183: a parameter index and the value to name (two's complement). -/
  | getstr (index : Byte) (value : Half)
  /-- LOADP, 45_parameters_presets.md R184: a preset index. -/
  | loadp (preset : Byte)
  /-- GETPI, 45_parameters_presets.md R185. -/
  | getpi
  /-- GETPN, 45_parameters_presets.md R186: a preset index. -/
  | getpn (preset : Byte)
  /-- NOTEON, 46_note_events.md R210: a note number and a velocity. -/
  | noteon (note : Byte) (velocity : Byte)
  /-- NOTEOFF, 46_note_events.md R213: a note number, 255 the wildcard. -/
  | noteoff (note : Byte)
  /-- PBEND, 46_note_events.md R214: a bend value. -/
  | pbend (bend : Half)
  /-- CHPRS, 46_note_events.md R215: a pressure. -/
  | chprs (pressure : Byte)
  /-- ATOUCH, 46_note_events.md R216: a note number and a pressure. -/
  | atouch (note : Byte) (pressure : Byte)
  /-- RENDER, 44_output_render.md R169: a frame count. -/
  | render (frames : Half)
  deriving DecidableEq, Repr

/-- One assembler line (30_encoding.md R68) or pseudo-instruction (R69), its operands the numbers as written, before
any check that they fit their fields. -/
inductive AsmLine where
  | init (rate channels : Int)
  | reset
  | teardown
  | suspend
  | resume
  | setp (index value : Int)
  | getp (index : Int)
  | getstr (index value : Int)
  | loadp (preset : Int)
  | getpi
  | getpn (preset : Int)
  | noteon (note velocity : Int)
  | noteoff (note : Int)
  | pbend (bend : Int)
  | chprs (pressure : Int)
  | atouch (note pressure : Int)
  /-- `RENDER n`, with any `n`: above 65535 it is a pseudo-instruction (R69). -/
  | render (frames : Int)
  /-- `NOTEOFFALL` = `NOTEOFF 255` (R69). -/
  | noteoffall
  /-- `SETPRESET p` = `LOADP p` (R69). -/
  | setpreset (preset : Int)
  deriving DecidableEq, Repr

end Sys2Proof
end

