-- ==== Sys2Proof/WellFormed.lean ====
section
/-! DEFINITION. Which assembler lines are well formed: "An operand that does not fit its field is an assembly error,
never truncated" (30_encoding.md R68). A command itself (`Instr`) needs no check: its operands have their fields'
widths, and within a legal word every operand value is legal (R65). -/

namespace Sys2Proof

/-- The number fits an unsigned field of `bits` bits (00_scope.md R9). -/
def fitsUnsigned (bits : Nat) (n : Int) : Bool :=
  decide (0 ≤ n) && decide (n < 2 ^ bits)

/-- The number fits a two's-complement field of `bits` bits (00_scope.md R9). -/
def fitsSigned (bits : Nat) (n : Int) : Bool :=
  decide (-(2 ^ (bits - 1) : Int) ≤ n) && decide (n < 2 ^ (bits - 1))

/-- Every operand of the line fits its field (30_encoding.md R61, R68). A RENDER's count only has to be a count: one
above 65535 is split (R69). -/
def AsmLine.wellFormed : AsmLine → Bool
  | .init rate channels => fitsUnsigned 16 rate && fitsUnsigned 8 channels
  | .reset => true
  | .teardown => true
  | .suspend => true
  | .resume => true
  | .setp index value => fitsUnsigned 8 index && fitsSigned 16 value
  | .getp index => fitsUnsigned 8 index
  | .getstr index value => fitsUnsigned 8 index && fitsSigned 16 value
  | .loadp preset => fitsUnsigned 8 preset
  | .getpi => true
  | .getpn preset => fitsUnsigned 8 preset
  | .noteon note velocity => fitsUnsigned 8 note && fitsUnsigned 8 velocity
  | .noteoff note => fitsUnsigned 8 note
  | .pbend bend => fitsUnsigned 16 bend
  | .chprs pressure => fitsUnsigned 8 pressure
  | .atouch note pressure => fitsUnsigned 8 note && fitsUnsigned 8 pressure
  | .render frames => decide (0 ≤ frames)
  | .noteoffall => true
  | .setpreset preset => fitsUnsigned 8 preset

end Sys2Proof
end

