-- ==== Sys2Proof/Decode.lean ====
section
/-! DEFINITION. Command words to commands and back (30_encoding.md R60 to R67), and words to bytes (20_memory.md R42).
The decoder is total on 32-bit words and names why it refuses one; the encoder follows R68; `opcodeTable` is R63. -/

namespace Sys2Proof

/-! ## Fields (R60, R61) -/

/-- `w[31:24]`, the opcode. -/
def opcField (w : Word) : Byte := w.extractLsb' 24 8

/-- `w[23:16]`, the operand `A`. -/
def aField (w : Word) : Byte := w.extractLsb' 16 8

/-- `w[15:0]`, the operand `IMM`. -/
def immField (w : Word) : Half := w.extractLsb' 0 16

/-- `w[15:8]`, reserved in the commands with an 8-bit `IMM` operand. -/
def immHighField (w : Word) : Byte := w.extractLsb' 8 8

/-- `w[7:0]`, the 8-bit `IMM` operand. -/
def immLowField (w : Word) : Byte := w.extractLsb' 0 8

/-! ## Decoding (R62, R65) -/

/-- Why a word spells no command (R65). -/
inductive DecodeError where
  /-- R65 (a): the opcode is none of the 17 values of R62. -/
  | reservedOpcode
  /-- R65 (b): a field that R62 marks must-be-zero is not zero. -/
  | reservedField
  deriving DecidableEq, Repr

/-- The command, if its must-be-zero fields are zero (R65 (b)). -/
def requireZero (zero : Bool) (i : Instr) : Except DecodeError Instr :=
  if zero then .ok i else .error .reservedField

/-- The command a word spells (R62, R63, R65). -/
def decode (w : Word) : Except DecodeError Instr :=
  match opcField w with
  | 0x01#8 => .ok (.init (aField w) (immField w))
  | 0x02#8 => requireZero (aField w == 0 && immField w == 0) .reset
  | 0x03#8 => requireZero (aField w == 0 && immField w == 0) .teardown
  | 0x04#8 => requireZero (aField w == 0 && immField w == 0) .suspend
  | 0x05#8 => requireZero (aField w == 0 && immField w == 0) .resume
  | 0x10#8 => .ok (.setp (aField w) (immField w))
  | 0x11#8 => requireZero (immField w == 0) (.getp (aField w))
  | 0x12#8 => .ok (.getstr (aField w) (immField w))
  | 0x18#8 => requireZero (immField w == 0) (.loadp (aField w))
  | 0x19#8 => requireZero (aField w == 0 && immField w == 0) .getpi
  | 0x1A#8 => requireZero (immField w == 0) (.getpn (aField w))
  | 0x20#8 => requireZero (immHighField w == 0) (.noteon (aField w) (immLowField w))
  | 0x21#8 => requireZero (immField w == 0) (.noteoff (aField w))
  | 0x22#8 => requireZero (aField w == 0) (.pbend (immField w))
  | 0x23#8 => requireZero (aField w == 0 && immHighField w == 0) (.chprs (immLowField w))
  | 0x24#8 => requireZero (immHighField w == 0) (.atouch (aField w) (immLowField w))
  | 0x30#8 => requireZero (aField w == 0) (.render (immField w))
  | _ => .error .reservedOpcode

/-! ## Encoding (R68) -/

/-- The word `{opc, a, imm}` of the one format C (R60). -/
def formatC (opc a : Byte) (imm : Half) : Word := opc ++ a ++ imm

/-- The `IMM` of a command whose 8-bit operand is `IMM[7:0]`, with `IMM[15:8]` zero (R61). -/
def lowImm (b : Byte) : Half := 0#8 ++ b

/-- The word of a command (R68). -/
def encode : Instr → Word
  | .init channels rate => formatC 0x01 channels rate
  | .reset => formatC 0x02 0 0
  | .teardown => formatC 0x03 0 0
  | .suspend => formatC 0x04 0 0
  | .resume => formatC 0x05 0 0
  | .setp index value => formatC 0x10 index value
  | .getp index => formatC 0x11 index 0
  | .getstr index value => formatC 0x12 index value
  | .loadp preset => formatC 0x18 preset 0
  | .getpi => formatC 0x19 0 0
  | .getpn preset => formatC 0x1A preset 0
  | .noteon note velocity => formatC 0x20 note (lowImm velocity)
  | .noteoff note => formatC 0x21 note 0
  | .pbend bend => formatC 0x22 0 bend
  | .chprs pressure => formatC 0x23 0 (lowImm pressure)
  | .atouch note pressure => formatC 0x24 note (lowImm pressure)
  | .render frames => formatC 0x30 0 frames

/-! ## The match and mask table (R63) -/

/-- A row of R63: "a word `w` spells command X exactly when `(w AND mask_X) = match_X`". -/
structure OpcodeRow where
  mnemonic : String
  pattern : Word
  mask : Word
  deriving DecidableEq, Repr

/-- The word matches the row. -/
def OpcodeRow.matchesWord (r : OpcodeRow) (w : Word) : Bool := w &&& r.mask == r.pattern

/-- The table of R63, in its order. -/
def opcodeTable : List OpcodeRow :=
  [⟨"INIT", 0x01000000, 0xFF000000⟩, ⟨"RESET", 0x02000000, 0xFFFFFFFF⟩, ⟨"TEARDOWN", 0x03000000, 0xFFFFFFFF⟩,
   ⟨"SUSPEND", 0x04000000, 0xFFFFFFFF⟩, ⟨"RESUME", 0x05000000, 0xFFFFFFFF⟩, ⟨"SETP", 0x10000000, 0xFF000000⟩,
   ⟨"GETP", 0x11000000, 0xFF00FFFF⟩, ⟨"GETSTR", 0x12000000, 0xFF000000⟩, ⟨"LOADP", 0x18000000, 0xFF00FFFF⟩,
   ⟨"GETPI", 0x19000000, 0xFFFFFFFF⟩, ⟨"GETPN", 0x1A000000, 0xFF00FFFF⟩, ⟨"NOTEON", 0x20000000, 0xFF00FF00⟩,
   ⟨"NOTEOFF", 0x21000000, 0xFF00FFFF⟩, ⟨"PBEND", 0x22000000, 0xFFFF0000⟩, ⟨"CHPRS", 0x23000000, 0xFFFFFF00⟩,
   ⟨"ATOUCH", 0x24000000, 0xFF00FF00⟩, ⟨"RENDER", 0x30000000, 0xFFFF0000⟩]

/-- The command's name in R62. -/
def mnemonic : Instr → String
  | .init _ _ => "INIT"
  | .reset => "RESET"
  | .teardown => "TEARDOWN"
  | .suspend => "SUSPEND"
  | .resume => "RESUME"
  | .setp _ _ => "SETP"
  | .getp _ => "GETP"
  | .getstr _ _ => "GETSTR"
  | .loadp _ => "LOADP"
  | .getpi => "GETPI"
  | .getpn _ => "GETPN"
  | .noteon _ _ => "NOTEON"
  | .noteoff _ => "NOTEOFF"
  | .pbend _ => "PBEND"
  | .chprs _ => "CHPRS"
  | .atouch _ _ => "ATOUCH"
  | .render _ => "RENDER"

/-! ## Words as bytes (20_memory.md R42) -/

/-- A word's four bytes, the least significant first. -/
def wordBytes (w : Word) : List Byte :=
  [w.extractLsb' 0 8, w.extractLsb' 8 8, w.extractLsb' 16 8, w.extractLsb' 24 8]

/-- The word that the first four bytes of a serialised stream give, and the bytes after it; none of fewer than four. -/
def wordOfBytes : List Byte → Option (Word × List Byte)
  | b0 :: b1 :: b2 :: b3 :: rest => some (b3 ++ b2 ++ b1 ++ b0, rest)
  | _ => none

/-! ## The host's table question -/

/-- The command the decoder reads from a word of the opcode table: `w`'s low `nbits` bits, every bit above them 0. A
CMD word is carried whole (R42), and every command is exactly one 32-bit word (R67). -/
def tableWord (nbits w : Nat) : Word := BitVec.ofNat 32 (w % 2 ^ nbits)

/-- What the decoder reads from the table's bits. -/
def decodeTableWord (nbits w : Nat) : Option Instr :=
  match decode (tableWord nbits w) with
  | .ok i => some i
  | .error _ => none

end Sys2Proof
end

