-- ==== Sys2Proof/Machine/Constants.lean ====
section
/-! DEFINITION. The named numbers of the pipeline (00_scope.md R8) and of the command set (R6), each at KS's literal.
KS's literals are unaudited (93_implementation_defined.md I10: UNVERIFIED, log entry 10); `kPw` is the spec's own
(D12). -/

namespace Sys2Proof.Machine

/-- `K_SR`, the sample rate in Hz. -/
def kSr : ℚ := 48000
/-- `K_MS`, milliseconds in a second. -/
def kMs : ℚ := 1000
/-- `K_PCT`, the divisor of a percent. -/
def kPct : ℚ := 100
/-- `K_RATIO`, the divisor of a ratio. -/
def kRatio : ℚ := 10
/-- `K_VEL`, the divisor of a velocity. -/
def kVel : ℚ := 127
/-- `K_FM`, Hz of frequency modulation at full amount. -/
def kFm : ℚ := 100
/-- `K_PW`, the pulse width (DESIGN CHOICE of the spec, D12). -/
def kPw : ℚ := 1 / 2
/-- `K_HP`, the click's high-pass coefficient. -/
def kHp : ℚ := 7 / 10
/-- `K_CLICK`, the click's makeup gain. -/
def kClick : ℚ := 3
/-- `K_DRV_IN`, the drive's input gain per unit of drive. -/
def kDrvIn : ℚ := 4
/-- `K_DRV_OUT`, the drive's loudness compensation per unit of drive. -/
def kDrvOut : ℚ := 3 / 2
/-- `K_CUT_MUL`, the cutoff's scale. -/
def kCutMul : ℚ := 9 / 10
/-- `K_CUT_ADD`, the cutoff's offset. -/
def kCutAdd : ℚ := 1 / 10
/-- `K_F`, the coefficient's scale. -/
def kF : ℚ := 116 / 100
/-- `K_FB2`, the 12 dB feedback scale. -/
def kFb2 : ℚ := 5 / 2
/-- `K_FB2F`, the 12 dB feedback's dependence on `f²`. -/
def kFb2F : ℚ := 2 / 10
/-- `K_FB4`, the 24 dB feedback scale. -/
def kFb4 : ℚ := 4
/-- `K_FB4F`, the 24 dB feedback's dependence on `f²`. -/
def kFb4F : ℚ := 15 / 100
/-- `K_IN`, the filter's input scale. -/
def kIn : ℚ := 35013 / 100000
/-- `K_POLE`, each stage's self-feedback. -/
def kPole : ℚ := 3 / 10
/-- `K_OUT`, the output's makeup gain. -/
def kOut : ℚ := 13 / 10

/-- The sample rate INIT accepts, as its 16-bit operand (R6, 47_lifecycle.md R230). -/
def initRate : Half := 48000
/-- The channel count INIT accepts (R6, 47_lifecycle.md R230). -/
def initChannels : Byte := 2
/-- The note number that NOTEOFF takes as "all" (46_note_events.md R212). -/
def noteAll : Byte := 255

end Sys2Proof.Machine
end

