-- ==== Sys2Proof/Machine/Signal.lean ====
section
/-! DEFINITION. Exact reals as plain data. "Every continuous quantity ... is an exact real number" (00_scope.md R7), and
the block combines noise draws, sines and hyperbolic tangents with rational factors, takes fractional parts and clips.
A `Signal` is a rational combination of such values, kept as a sum of terms `c · atom` that ends in a constant, so the
state can be compared and written out; `Signal.value` says which real it is, for each noise stream. Log entry 1. -/

namespace Sys2Proof.Machine

mutual
/-- A rational combination of atoms: `c₁·a₁ + (c₂·a₂ + (… + q))`. -/
inductive Signal where
  /-- The rational `q`. -/
  | const (q : ℚ)
  /-- `coeff · atom + rest`. -/
  | term (coeff : ℚ) (atom : Atom) (rest : Signal)
  deriving DecidableEq, Repr
/-- A value of the pipeline that is no rational combination of simpler ones. -/
inductive Atom where
  /-- The `n`-th noise draw (counted from 0 at power-on), a free value (41_oscillators.md R121). -/
  | draw (n : Nat)
  /-- `S(x) = sin(2·π·x)` (00_scope.md R10). -/
  | sine (x : Signal)
  /-- `tanh(x)` (00_scope.md R10). -/
  | tanh (x : Signal)
  /-- `frac(x) = x − floor(x)` (00_scope.md R10). -/
  | frac (x : Signal)
  /-- `clip(x) = min(1, max(−1, x))` (00_scope.md R10). -/
  | clip (x : Signal)
  deriving DecidableEq, Repr
end

/-! ## The value of a signal (R7, R10) -/

mutual
/-- The real that a signal is when the noise draws have the values `noise`. -/
noncomputable def Signal.value (noise : Nat → ℝ) : Signal → ℝ
  | .const q => (q : ℝ)
  | .term c a rest => (c : ℝ) * a.value noise + rest.value noise
/-- The real that an atom is. -/
noncomputable def Atom.value (noise : Nat → ℝ) : Atom → ℝ
  | .draw n => noise n
  | .sine x => Real.sin (2 * Real.pi * x.value noise)
  | .tanh x => Real.tanh (x.value noise)
  | .frac x => Int.fract (x.value noise)
  | .clip x => min 1 (max (-1) (x.value noise))
end

/-- "Each draw is an independent real in [−1, 1]; nothing else about the values is assumed" (41_oscillators.md R121). -/
def LegalNoise (noise : Nat → ℝ) : Prop := ∀ n, -1 ≤ noise n ∧ noise n ≤ 1

/-! ## Rational functions (R10) -/

/-- `frac(q) = q − floor(q)`. -/
def fracRat (q : ℚ) : ℚ := q - (q.floor : ℚ)

/-- `clamp01(q) = min(1, max(0, q))`. -/
def clamp01Rat (q : ℚ) : ℚ := min 1 (max 0 q)

/-- `clip(q) = min(1, max(−1, q))`. -/
def clipRat (q : ℚ) : ℚ := min 1 (max (-1) q)

/-! ## Arithmetic on signals -/

/-- The signal that is one atom. -/
def Signal.ofAtom (a : Atom) : Signal := .term 1 a (.const 0)

/-- `x + q`. -/
def Signal.addConst (q : ℚ) : Signal → Signal
  | .const q' => .const (q' + q)
  | .term c a rest => .term c a (rest.addConst q)

/-- `c·a + x`: the term joins the term of the same atom, and a term of coefficient 0 is left out. -/
def Signal.addTerm (c : ℚ) (a : Atom) : Signal → Signal
  | .const q => if c = 0 then .const q else .term c a (.const q)
  | .term c' a' rest =>
    if a' = a then (if c' + c = 0 then rest else .term (c' + c) a' rest)
    else .term c' a' (rest.addTerm c a)

/-- `x + y`. -/
def Signal.add : Signal → Signal → Signal
  | x, .const q => x.addConst q
  | x, .term c a rest => (x.add rest).addTerm c a

/-- `c·x` for a factor other than 0. -/
def Signal.scaleTerms (c : ℚ) : Signal → Signal
  | .const q => .const (q * c)
  | .term c' a rest => .term (c' * c) a (rest.scaleTerms c)

/-- `x·c`. -/
def Signal.scale (x : Signal) (c : ℚ) : Signal :=
  if c = 0 then .const 0 else x.scaleTerms c

/-- `x − y`. -/
def Signal.sub (x y : Signal) : Signal := x.add (y.scale (-1))

/-! ## Functions of a phase: `frac` and `S` see a signal only modulo 1 -/

/-- The constant reduced modulo 1. -/
def Signal.fracConst : Signal → Signal
  | .const q => .const (fracRat q)
  | .term c a rest => .term c a rest.fracConst

/-- A signal that differs from `x` by an integer: a term `1·frac(y)` is replaced by `y`. -/
def Signal.unwrap : Signal → Signal
  | .const q => .const q
  | .term c a rest =>
    match a with
    | .frac y => if c = 1 then rest.unwrap.add y else rest.unwrap.addTerm c (.frac y)
    | a => rest.unwrap.addTerm c a

/-- A signal that differs from `x` by an integer, with no whole turns left in it. -/
def Signal.modOne (x : Signal) : Signal := x.unwrap.fracConst

/-- `frac(x)`. -/
def Signal.frac (x : Signal) : Signal :=
  match x.modOne with
  | .const q => .const q
  | y => .ofAtom (.frac y)

/-- `S(q)` for a rational phase: a rational at the multiples of a twelfth of a turn where it is one. -/
def Signal.sineRat (q : ℚ) : Signal :=
  let p := fracRat q
  if p = 0 then .const 0
  else if p = 1 / 12 then .const (1 / 2)
  else if p = 1 / 4 then .const 1
  else if p = 5 / 12 then .const (1 / 2)
  else if p = 1 / 2 then .const 0
  else if p = 7 / 12 then .const (-1 / 2)
  else if p = 3 / 4 then .const (-1)
  else if p = 11 / 12 then .const (-1 / 2)
  else .ofAtom (.sine (.const p))

/-- `S(x) = sin(2·π·x)`. -/
def Signal.sine (x : Signal) : Signal :=
  match x.modOne with
  | .const q => Signal.sineRat q
  | y => .ofAtom (.sine y)

/-- `tanh(x)`. -/
def Signal.tanh (x : Signal) : Signal :=
  if x = .const 0 then .const 0 else .ofAtom (.tanh x)

/-- `clip(x)`. -/
def Signal.clip : Signal → Signal
  | .const q => .const (clipRat q)
  | x => .ofAtom (.clip x)

end Sys2Proof.Machine
end

