-- ==== Sys2Proof/Machine/Arith.lean ====
section
/-! DEFINITION. The realisation of real arithmetic, the OPEN parameter `Arith` (00_scope.md R6, R7, D2). The whole block
takes it as an argument. Two number types: the control values (envelopes, the osc2 and click phases,
parameters, velocity), on which the block makes decisions, and the signal values, on which it makes none.
`Arith.exact` is the reference instance the machine runs (log entry 6); `Arith.reals` is R7's own domain, to which the exact one is
held by `Sys2Proof.Machine.Signal.value`. -/

namespace Sys2Proof.Machine

/-- A realisation of the operations of 00_scope.md R10, "about which a model assumes nothing but totality" (D2). -/
structure Arith (E S : Type) where
  /-- `real(n)` and the constants of R8. -/
  real : ℚ → E
  /-- `a + b`. -/
  add : E → E → E
  /-- `a − b`. -/
  sub : E → E → E
  /-- `a · b`. -/
  mul : E → E → E
  /-- `a / b`. -/
  div : E → E → E
  /-- `|a|`. -/
  abs : E → E
  /-- `frac(a)`. -/
  frac : E → E
  /-- `clamp01(a)`. -/
  clamp01 : E → E
  /-- `a < b`. -/
  less : E → E → Bool
  /-- `a ≤ b`. -/
  atMost : E → E → Bool
  /-- `a = b`. -/
  same : E → E → Bool
  /-- A control value as a signal. -/
  signal : E → S
  /-- `x + y`. -/
  plus : S → S → S
  /-- `x − y`. -/
  minus : S → S → S
  /-- `x · a`. -/
  scale : S → E → S
  /-- `x / a`. -/
  divide : S → E → S
  /-- `S(a) = sin(2·π·a)` of a control value. -/
  sine : E → S
  /-- `S(x) = sin(2·π·x)` of a signal. -/
  sineOf : S → S
  /-- `tanh(x)`. -/
  tanh : S → S
  /-- `frac(x)` of a signal. -/
  wrap : S → S
  /-- `clip(x)`. -/
  clip : S → S

/-- The exact realisation (00_scope.md R7) on plain data: rationals and `Signal`s. -/
def Arith.exact : Arith ℚ Signal where
  real q := q
  add a b := a + b
  sub a b := a - b
  mul a b := a * b
  div a b := a / b
  abs a := |a|
  frac := fracRat
  clamp01 := clamp01Rat
  less a b := decide (a < b)
  atMost a b := decide (a ≤ b)
  same a b := decide (a = b)
  signal a := .const a
  plus := Signal.add
  minus := Signal.sub
  scale := Signal.scale
  divide x a := x.scale a⁻¹
  sine a := Signal.sine (.const a)
  sineOf := Signal.sine
  tanh := Signal.tanh
  wrap := Signal.frac
  clip := Signal.clip

open Classical in
/-- The real numbers themselves (00_scope.md R7, R10), for statements: not for running. -/
noncomputable def Arith.reals : Arith ℝ ℝ where
  real q := (q : ℝ)
  add a b := a + b
  sub a b := a - b
  mul a b := a * b
  div a b := a / b
  abs a := |a|
  frac a := a - (⌊a⌋ : ℝ)
  clamp01 a := min 1 (max 0 a)
  less a b := decide (a < b)
  atMost a b := decide (a ≤ b)
  same a b := decide (a = b)
  signal a := a
  plus x y := x + y
  minus x y := x - y
  scale x a := x * a
  divide x a := x / a
  sine a := Real.sin (2 * Real.pi * a)
  sineOf x := Real.sin (2 * Real.pi * x)
  tanh x := Real.tanh x
  wrap x := x - (⌊x⌋ : ℝ)
  clip x := min 1 (max (-1) x)

/-- What D40 asks of a realisation whose arithmetic can yield non-finite values: its clip maps NaN to 0, +∞ to 1 and
−∞ to −1, so that every emitted sample stays in [−1, 1] (92_eei_decisions.md D40, 93_implementation_defined.md I3). -/
def Arith.ClipsNonFinite {E S : Type} (A : Arith E S) (nan posInf negInf : S) : Prop :=
  A.clip nan = A.signal (A.real 0) ∧ A.clip posInf = A.signal (A.real 1) ∧ A.clip negInf = A.signal (A.real (-1))

end Sys2Proof.Machine
end

