-- ==== Sys2Proof/Machine/State.lean ====
section
/-! DEFINITION. The state of the block (10_state.md), as plain data, and its value after power-on
(70_reset_and_hazards.md R280, R281). -/

namespace Sys2Proof.Machine

/-! ## The Voice State (10_state.md R20) -/

/-- `env_phase`: "an enumeration with four values and no binary encoding" (R21). -/
inductive EnvPhase where
  | idle
  | attack
  | decay
  | release
  deriving DecidableEq, Repr

/-- `filter_stage[0..3]` (R20). -/
structure FilterStages (S : Type) where
  s0 : S
  s1 : S
  s2 : S
  s3 : S
  deriving DecidableEq, Repr

/-- The Voice State (R20) over a realisation's control values `E` and signal values `S`. -/
structure VoiceState (E S : Type) where
  /-- `phase_body`, advanced by a frequency that holds the FM sine: a signal value. -/
  phaseBody : S
  /-- `phase_osc2`. -/
  phaseOsc2 : E
  /-- `phase_click`. -/
  phaseClick : E
  /-- `amp_env`. -/
  ampEnv : E
  /-- `pitch_env`. -/
  pitchEnv : E
  /-- `osc2_env`. -/
  osc2Env : E
  /-- `click_env`. -/
  clickEnv : E
  /-- `env_phase`. -/
  envPhase : EnvPhase
  /-- `filter_stage[0..3]`. -/
  filterStage : FilterStages S
  /-- `last_click`. -/
  lastClick : S
  /-- `current_note`. -/
  currentNote : Byte
  /-- `current_velocity`. -/
  currentVelocity : E
  deriving DecidableEq, Repr

/-- The Voice State of the exact realisation, which the machine holds (00_scope.md R7). -/
abbrev Voice := VoiceState ℚ Signal

/-- The Voice State's reset column (10_state.md R20): "all-zero/idle". -/
def VoiceState.zero {E S : Type} (A : Arith E S) : VoiceState E S where
  phaseBody := A.signal (A.real 0)
  phaseOsc2 := A.real 0
  phaseClick := A.real 0
  ampEnv := A.real 0
  pitchEnv := A.real 0
  osc2Env := A.real 0
  clickEnv := A.real 0
  envPhase := .idle
  filterStage := ⟨A.signal (A.real 0), A.signal (A.real 0), A.signal (A.real 0), A.signal (A.real 0)⟩
  lastClick := A.signal (A.real 0)
  currentNote := 0
  currentVelocity := A.real 0

/-! ## The Parameter Set (10_state.md R25, R26) -/

/-- The parameter registers by name, in index order 0 to 21 (R26). -/
inductive Param where
  | pitch
  | decay
  | bodyLevel
  | drive
  | attack
  | release
  | pitchCurve
  | clickLevel
  | clickFreq
  | clickDecay
  | clickTone
  | filterEn
  | cutoff
  | resonance
  | filterMode
  | osc2En
  | osc2Wave
  | osc2Ratio
  | osc2Level
  | fmAmount
  | fmRatio
  | osc2Decay
  deriving DecidableEq, Repr

/-- `P[0..21]`, "each holding the raw 16-bit signed integer last written to it" (R25). -/
abbrev ParamSet := Vector Half 22

/-! ## Lifecycle, faults, ports (10_state.md R32, R33) -/

/-- `life` (R32). -/
inductive Life where
  | uninit
  | ready
  | failed
  deriving DecidableEq, Repr

/-- The fault codes (60_exceptions.md R251): what `raise Fault(code)` records. -/
inductive FaultCode where
  /-- 1 ILLEGAL_COMMAND: the word spells no command (30_encoding.md R65). -/
  | illegalCommand
  /-- 2 NOT_INITIALISED: a command other than INIT while `life = UNINIT`. -/
  | notInitialised
  /-- 3 USE_AFTER_FAILED_INIT: any command while `life = FAILED`. -/
  | useAfterFailedInit
  deriving DecidableEq, Repr

/-- A frame on OUT: a pair (L, R) of output samples (R33). -/
structure StereoFrame (S : Type) where
  left : S
  right : S
  deriving DecidableEq, Repr

/-- The whole state of the block, over a realisation's control values `E` and signal values `S`: "`Arith` OPEN: the
realisation of real arithmetic; reference instance = exact reals" (00_scope.md R6). -/
structure Block (E S : Type) where
  /-- The Voice State (R20). -/
  voice : VoiceState E S
  /-- The Parameter Set (R26). -/
  params : ParamSet
  /-- `preset_index` (R31). -/
  presetIndex : Byte
  /-- `life` (R32). -/
  life : Life
  /-- `fault`, `none` for NONE (R32). -/
  fault : Option FaultCode
  /-- `fault_word` (R32). -/
  faultWord : Word
  /-- CMD: the words not yet consumed, oldest first (R33). -/
  cmd : List Word
  /-- RSP: the response words, oldest first (R33). -/
  rsp : List Word
  /-- OUT: the frames, oldest first (R33). -/
  out : List (StereoFrame S)
  /-- The model's own field: how many draws were taken from NOISE (R33), the counter of the free values. Log entry 3. -/
  draws : Nat
  deriving DecidableEq, Repr

/-- The state of the machine: the block in the reference instance of `Arith`, exact reals as plain data (00_scope.md
R7, log entries 1 and 6). -/
structure State extends Block ℚ Signal where
  deriving DecidableEq, Repr

/-- Why the machine stops. -/
inductive Fault where
  /-- Raised by `step` on a block that holds a fault: "Once `fault != NONE` the block takes no further command: it is
  stuck, and only power-on leaves the state" (60_exceptions.md R250). Safe: the spec's own stop. -/
  | stuck (code : FaultCode)
  deriving DecidableEq, Repr

/-- Why a step does not take place. -/
inductive Refusal where
  /-- Raised by `exec`'s arm of an instruction that has no meaning yet: none in this model. Safe. -/
  | notModelled (mnemonic : String)
  /-- Raised by `renderToBuffer` alone, a RENDER into a host buffer whose base is no multiple of 4: "a model refuses a
  RENDER whose buffer base is not (no step)" (20_memory.md R44). Safe. -/
  | misalignedBuffer (base : Nat)
  deriving DecidableEq, Repr

/-- The block right after power-on (70_reset_and_hazards.md R280 and the power-on column of R281). -/
def Block.reset {E S : Type} (A : Arith E S) : Block E S where
  voice := VoiceState.zero A
  params := Vector.ofFn Config.defaultParams
  presetIndex := 0
  life := .uninit
  fault := none
  faultWord := 0
  cmd := []
  rsp := []
  out := []
  draws := 0

/-- The machine right after power-on. -/
def State.reset : State where
  toBlock := Block.reset Arith.exact

end Sys2Proof.Machine
end

