-- ==== Sys2Proof/Machine/Flags.lean ====
section
/-! DEFINITION. The tests and code words that stand where another machine has flags: the block has none
(44_output_render.md R169, "Flags written: none"). Fault numbers, the lifecycle check, INIT's status codes, the string
identifiers and the note match. -/

namespace Sys2Proof.Machine

/-- The fault register's number: the codes are those of 60_exceptions.md R251; that NONE, which the spec does not number,
is 0 is a DESIGN CHOICE, log entry 15. -/
def faultNumber : Option FaultCode → Nat
  | none => 0
  | some .illegalCommand => 1
  | some .notInitialised => 2
  | some .useAfterFailedInit => 3

/-- `X = INIT` (30_encoding.md R66). -/
def isInit : Instr → Bool
  | .init _ _ => true
  | .reset => false
  | .teardown => false
  | .suspend => false
  | .resume => false
  | .setp _ _ => false
  | .getp _ => false
  | .getstr _ _ => false
  | .loadp _ => false
  | .getpi => false
  | .getpn _ => false
  | .noteon _ _ => false
  | .noteoff _ => false
  | .pbend _ => false
  | .chprs _ => false
  | .atouch _ _ => false
  | .render _ => false

/-- The lifecycle checks of 30_encoding.md R66, in its order: FAILED faults every command, UNINIT every command but
INIT. -/
def lifecycleFault (i : Instr) : Life → Option FaultCode
  | .failed => some .useAfterFailedInit
  | .uninit => if isInit i then none else some .notInitialised
  | .ready => none

/-- INIT's status code (47_lifecycle.md R230, R231): the sample rate is tested first. -/
def initStatus (channels : Byte) (rate : Half) : Word :=
  if rate ≠ initRate then 1 else if channels ≠ initChannels then 2 else 0

/-- NONE: "the parameter has no string representation" (45_parameters_presets.md R187). -/
def idNone : Word := 0xFE
/-- PLACEHOLDER, the text "---" (45_parameters_presets.md R187). -/
def idPlaceholder : Word := 0xFF

/-- The identifier GETSTR answers (45_parameters_presets.md R183): index 16 is OSC2_WAVE. -/
def paramStringId (index : Byte) (value : Half) : Word :=
  if index = 16 then
    if 0 ≤ value.toInt ∧ value.toInt ≤ 4 then value.signExtend 32 else idPlaceholder
  else if index ≤ 21 then idNone
  else idPlaceholder

/-- The identifier GETPN answers (45_parameters_presets.md R186). -/
def presetNameId (preset : Byte) : Word :=
  if preset ≤ 4 then preset.zeroExtend 32 else idPlaceholder

/-- The NOTEOFF's note matches: it is the sounding note or the wildcard (46_note_events.md R212, R213). -/
def noteMatches (note current : Byte) : Bool := note == current || note == noteAll

/-- `env_phase in {Attack, Decay}` (46_note_events.md R213). -/
def releasable : EnvPhase → Bool
  | .idle => false
  | .attack => true
  | .decay => true
  | .release => false

end Sys2Proof.Machine
end

