-- ==== Sys2Proof/Machine/Operands.lean ====
section
/-! DEFINITION. The parameter registers' indices, classes and conversions (10_state.md R26, R27; 00_scope.md R12). The
operands of the command words are taken apart in `Sys2Proof.decode` (30_encoding.md R61). -/

namespace Sys2Proof.Machine

/-- The register's index (10_state.md R26). -/
def Param.index : Param → Fin 22
  | .pitch => 0
  | .decay => 1
  | .bodyLevel => 2
  | .drive => 3
  | .attack => 4
  | .release => 5
  | .pitchCurve => 6
  | .clickLevel => 7
  | .clickFreq => 8
  | .clickDecay => 9
  | .clickTone => 10
  | .filterEn => 11
  | .cutoff => 12
  | .resonance => 13
  | .filterMode => 14
  | .osc2En => 15
  | .osc2Wave => 16
  | .osc2Ratio => 17
  | .osc2Level => 18
  | .fmAmount => 19
  | .fmRatio => 20
  | .osc2Decay => 21

/-- The parameter classes (10_state.md R26, R27). -/
inductive ParamClass where
  | hz
  | ms
  | percent
  | ratio
  | onOff
  | choice
  deriving DecidableEq, Repr

/-- The register's class (10_state.md R26). -/
def Param.cls : Param → ParamClass
  | .pitch => .hz
  | .decay => .ms
  | .bodyLevel => .percent
  | .drive => .percent
  | .attack => .ms
  | .release => .ms
  | .pitchCurve => .percent
  | .clickLevel => .percent
  | .clickFreq => .hz
  | .clickDecay => .ms
  | .clickTone => .percent
  | .filterEn => .onOff
  | .cutoff => .percent
  | .resonance => .percent
  | .filterMode => .onOff
  | .osc2En => .onOff
  | .osc2Wave => .choice
  | .osc2Ratio => .ratio
  | .osc2Level => .percent
  | .fmAmount => .percent
  | .fmRatio => .ratio
  | .osc2Decay => .ms

/-- `P[p]` as a mathematical integer: the raw value is two's complement (10_state.md R25). -/
def rawValue (P : ParamSet) (p : Param) : Int := (P[p.index]).toInt

/-- `pct(p) = real(P[p]) / K_PCT` (00_scope.md R12). -/
def pct {E S : Type} (A : Arith E S) (P : ParamSet) (p : Param) : E := A.div (A.real (rawValue P p)) (A.real kPct)

/-- `ratio(p) = real(P[p]) / K_RATIO` (00_scope.md R12). -/
def ratio {E S : Type} (A : Arith E S) (P : ParamSet) (p : Param) : E := A.div (A.real (rawValue P p)) (A.real kRatio)

/-- `hz(p) = real(P[p])` (00_scope.md R12). -/
def hz {E S : Type} (A : Arith E S) (P : ParamSet) (p : Param) : E := A.real (rawValue P p)

/-- `ms(p) = real(P[p])` (00_scope.md R12). -/
def ms {E S : Type} (A : Arith E S) (P : ParamSet) (p : Param) : E := A.real (rawValue P p)

/-- `on(p) = (P[p] > 0)` (00_scope.md R12): "any positive value as true". -/
def isOn (P : ParamSet) (p : Param) : Bool := decide (rawValue P p > 0)

/-- `choice(p) = P[p]` (00_scope.md R12). -/
def choice (P : ParamSet) (p : Param) : Int := rawValue P p

/-- What a register's conversion gives (10_state.md R27): a number, a truth value or an integer, by its class. -/
inductive Converted (E : Type) where
  | number (x : E)
  | truth (b : Bool)
  | integer (k : Int)

/-- The conversion of the register's class (10_state.md R27, 00_scope.md R12). The stages write it out, register by
register. -/
def converted {E S : Type} (A : Arith E S) (P : ParamSet) (p : Param) : Converted E :=
  match p.cls with
  | .hz => .number (hz A P p)
  | .ms => .number (ms A P p)
  | .percent => .number (pct A P p)
  | .ratio => .number (ratio A P p)
  | .onOff => .truth (isOn P p)
  | .choice => .integer (choice P p)

end Sys2Proof.Machine
end

