-- ==== Sys2Proof/Machine/Ops.lean ====
section
/-! DEFINITION. The shared operations on the block, for any realisation of the arithmetic (00_scope.md R6): ports,
registers, construction, the fault state, the acceptance of a command, the loop (00_scope.md R11, 60_exceptions.md R250,
30_encoding.md R66). -/

namespace Sys2Proof.Machine

variable {E S : Type}

/-! ## Ports (10_state.md R33) -/

/-- The next word on CMD, consumed (30_encoding.md R66), or none when CMD is empty. -/
def takeCommand (s : Block E S) : Option (Word × Block E S) :=
  match s.cmd with
  | [] => none
  | w :: rest => some (w, { s with cmd := rest })

/-- `respond(w)`: append one word to RSP (00_scope.md R11). -/
def respond (w : Word) (s : Block E S) : Block E S := { s with rsp := s.rsp ++ [w] }

/-- The host appends a word to CMD (10_state.md R34). -/
def offerCommand (w : Word) (s : Block E S) : Block E S := { s with cmd := s.cmd ++ [w] }

/-! ## The fault state (60_exceptions.md R250) -/

/-- `raise Fault(code)` with the current command word `w`: `fault <- code`, `fault_word <- w`, nothing else. There is
no handler, no saved program counter and no return (R255, R256). -/
def raiseFault (code : FaultCode) (w : Word) (s : Block E S) : Block E S :=
  { s with fault := some code, faultWord := w }

/-- Execute a command's own effect once the lifecycle checks of 30_encoding.md R66 let it through; else raise their
fault, recording the command's word. The fault register is `step`'s to look at (DESIGN CHOICE, log entry 13). -/
def accepted (i : Instr) (effect : Block E S → Block E S) (s : Block E S) : Host.Outcome (Block E S) Fault Refusal :=
  match lifecycleFault i s.life with
  | some code => .next (raiseFault code (encode i) s)
  | none => .next (effect s)

/-! ## Parameters and presets (10_state.md R25 to R31) -/

/-- `P[a] <- value`, for a known index; "unknown parameter indices ... are silently ignored" (45_parameters_presets.md
R181). -/
def setParam (index : Byte) (value : Half) (s : Block E S) : Block E S :=
  if h : index.toNat < 22 then { s with params := s.params.set index.toNat value h } else s

/-- The raw value of register `index`, "get: zero" for an unknown one (45_parameters_presets.md R182). -/
def getParam (index : Byte) (s : Block E S) : Half :=
  if h : index.toNat < 22 then s.params[index.toNat] else 0

/-- `P[0..21] <- PresetTable[a]` and `preset_index <- a` for a known preset, nothing for another
(45_parameters_presets.md R184). -/
def loadPreset (preset : Byte) (s : Block E S) : Block E S :=
  if h : preset.toNat < 5 then
    { s with params := Vector.ofFn (Config.presetTable ⟨preset.toNat, h⟩), presetIndex := preset }
  else s

/-! ## Construction and reset (47_lifecycle.md R232, R236) -/

/-- Every Voice State field at its reset value (R232). -/
def resetVoice (A : Arith E S) (s : Block E S) : Block E S := { s with voice := VoiceState.zero A }

/-- `construct()` (R236). -/
def construct (A : Arith E S) (s : Block E S) : Block E S :=
  { s with voice := VoiceState.zero A, params := Vector.ofFn Config.defaultParams, presetIndex := 0 }

/-- Power-on (70_reset_and_hazards.md R280): `construct()`, the lifecycle and fault registers at their power-on
values, empty ports. The NOISE source is not rewound: later draws are fresh (log entry 3). -/
def Block.powerOn (A : Arith E S) (s : Block E S) : Block E S :=
  { construct A s with life := .uninit, fault := none, faultWord := 0, cmd := [], rsp := [], out := [] }

/-! ## Note events (46_note_events.md) -/

/-- `real(b) / K_VEL` (R210). -/
def velocityOf (A : Arith E S) (b : Byte) : E := A.div (A.real b.toNat) (A.real kVel)

/-- What NOTEON writes (R210): the phase accumulators and the parameters stay. -/
def trigger (A : Arith E S) (note velocity : Byte) (s : Block E S) : Block E S :=
  { s with
    voice := { s.voice with
      envPhase := .attack
      ampEnv := A.real 0
      pitchEnv := A.real 1
      osc2Env := A.real 1
      clickEnv := A.real 1
      filterStage := ⟨A.signal (A.real 0), A.signal (A.real 0), A.signal (A.real 0), A.signal (A.real 0)⟩
      lastClick := A.signal (A.real 0)
      currentNote := note
      currentVelocity := velocityOf A velocity } }

/-- What NOTEOFF writes (R213): `env_phase` only, and only if the note matches in Attack or Decay. -/
def releaseNote (note : Byte) (s : Block E S) : Block E S :=
  if noteMatches note s.voice.currentNote && releasable s.voice.envPhase then
    { s with voice := { s.voice with envPhase := .release } }
  else s

/-! ## The loop (30_encoding.md R66) -/

/-- One turn of the loop: a block that holds a fault is stuck; with CMD empty the block waits, unchanged; else it
consumes the next word, raises ILLEGAL_COMMAND if the word spells no command, and executes the command. `whole` is the
machine a block belongs to. That a wait is a step to the same state is DEDUCED, log entry 8. -/
def turn {M : Type} (execute : Instr → Block E S → Host.Outcome M Fault Refusal) (whole : Block E S → M)
    (s : Block E S) : Host.Outcome M Fault Refusal :=
  match s.fault with
  | some code => .fault (.stuck code)
  | none =>
    match takeCommand s with
    | none => .next (whole s)
    | some (w, t) =>
      match decode w with
      | .error _ => .next (whole (raiseFault .illegalCommand w t))
      | .ok i => execute i t

/-! ## The machine: the block in exact arithmetic (00_scope.md R7) -/

/-- A meaning on the block, as the machine's. -/
def onState (meaning : Block ℚ Signal → Host.Outcome (Block ℚ Signal) Fault Refusal) (s : State) :
    Host.Outcome State Fault Refusal :=
  match meaning s.toBlock with
  | .next t => .next { toBlock := t }
  | .fault r => .fault r
  | .refused r => .refused r

/-- Power-on of the machine. -/
def powerOn (s : State) : State where
  toBlock := s.toBlock.powerOn Arith.exact

/-! ## The host's placement of a command -/

/-- The block ready to run, with `w` as its next command: `w` in front of CMD, no fault held, `life = READY`, as the
boot sequence's INIT leaves it (70_reset_and_hazards.md R283). Log entry 7. -/
def placeCommand (w : Word) (s : Block E S) : Block E S :=
  { s with cmd := w :: s.cmd, life := .ready, fault := none }

end Sys2Proof.Machine
end

