-- ==== Sys2Proof/Machine/Lifecycle.lean ====
section
/-! DEFINITION. The lifecycle commands (47_lifecycle.md), on the block of any realisation (`initOn`, ...) and on the
machine (`execInit`, ...). Each passes the acceptance checks of 30_encoding.md R66. -/

namespace Sys2Proof.Machine

variable {E S : Type}

/-- INIT's own effect (R230): the status word of R231, and `construct()` and READY, or FAILED. -/
def initEffect (A : Arith E S) (channels : Byte) (rate : Half) (s : Block E S) : Block E S :=
  if initStatus channels rate = 0 then respond 0 { construct A s with life := .ready }
  else respond (initStatus channels rate) { s with life := .failed }

/-- INIT (R230). -/
def initOn (A : Arith E S) (channels : Byte) (rate : Half) (s : Block E S) : Host.Outcome (Block E S) Fault Refusal :=
  accepted (.init channels rate) (initEffect A channels rate) s

/-- RESET (R232). -/
def resetOn (A : Arith E S) (s : Block E S) : Host.Outcome (Block E S) Fault Refusal :=
  accepted .reset (resetVoice A) s

/-- TEARDOWN (R233): "teardown/suspend/resume are no-ops". -/
def teardownOn (s : Block E S) : Host.Outcome (Block E S) Fault Refusal := accepted .teardown (fun t => t) s

/-- SUSPEND (R234): no effect. -/
def suspendOn (s : Block E S) : Host.Outcome (Block E S) Fault Refusal := accepted .suspend (fun t => t) s

/-- RESUME (R235): no effect. -/
def resumeOn (s : Block E S) : Host.Outcome (Block E S) Fault Refusal := accepted .resume (fun t => t) s

/-! ## On the machine -/

/-- INIT (R230). -/
def execInit (channels : Byte) (rate : Half) (s : State) : Host.Outcome State Fault Refusal :=
  onState (initOn Arith.exact channels rate) s

/-- RESET (R232). -/
def execReset (s : State) : Host.Outcome State Fault Refusal := onState (resetOn Arith.exact) s

/-- TEARDOWN (R233). -/
def execTeardown (s : State) : Host.Outcome State Fault Refusal := onState teardownOn s

/-- SUSPEND (R234). -/
def execSuspend (s : State) : Host.Outcome State Fault Refusal := onState suspendOn s

/-- RESUME (R235). -/
def execResume (s : State) : Host.Outcome State Fault Refusal := onState resumeOn s

end Sys2Proof.Machine
end

