-- ==== Sys2Proof/Machine/NoteEvents.lean ====
section
/-! DEFINITION. The note-event commands (46_note_events.md), on the block of any realisation (`noteonOn`, ...) and on
the machine (`execNoteon`, ...). Each passes the acceptance checks of 30_encoding.md R66. -/

namespace Sys2Proof.Machine

variable {E S : Type}

/-- NOTEON (R210). -/
def noteonOn (A : Arith E S) (note velocity : Byte) (s : Block E S) : Host.Outcome (Block E S) Fault Refusal :=
  accepted (.noteon note velocity) (trigger A note velocity) s

/-- NOTEOFF (R213). -/
def noteoffOn (note : Byte) (s : Block E S) : Host.Outcome (Block E S) Fault Refusal :=
  accepted (.noteoff note) (releaseNote note) s

/-- PBEND (R214): "accepted but produce no effect". -/
def pbendOn (bend : Half) (s : Block E S) : Host.Outcome (Block E S) Fault Refusal :=
  accepted (.pbend bend) (fun t => t) s

/-- CHPRS (R215): no effect. -/
def chprsOn (pressure : Byte) (s : Block E S) : Host.Outcome (Block E S) Fault Refusal :=
  accepted (.chprs pressure) (fun t => t) s

/-- ATOUCH (R216): no effect. -/
def atouchOn (note pressure : Byte) (s : Block E S) : Host.Outcome (Block E S) Fault Refusal :=
  accepted (.atouch note pressure) (fun t => t) s

/-! ## On the machine -/

/-- NOTEON (R210). -/
def execNoteon (note velocity : Byte) (s : State) : Host.Outcome State Fault Refusal :=
  onState (noteonOn Arith.exact note velocity) s

/-- NOTEOFF (R213). -/
def execNoteoff (note : Byte) (s : State) : Host.Outcome State Fault Refusal := onState (noteoffOn note) s

/-- PBEND (R214). -/
def execPbend (bend : Half) (s : State) : Host.Outcome State Fault Refusal := onState (pbendOn bend) s

/-- CHPRS (R215). -/
def execChprs (pressure : Byte) (s : State) : Host.Outcome State Fault Refusal := onState (chprsOn pressure) s

/-- ATOUCH (R216). -/
def execAtouch (note pressure : Byte) (s : State) : Host.Outcome State Fault Refusal :=
  onState (atouchOn note pressure) s

end Sys2Proof.Machine
end

