-- ==== Sys2Proof/Machine/Parameters.lean ====
section
/-! DEFINITION. The parameter and preset commands (45_parameters_presets.md), on the block of any realisation (`setpOn`,
...) and on the machine (`execSetp`, ...). Each passes the acceptance checks of 30_encoding.md R66. -/

namespace Sys2Proof.Machine

variable {E S : Type}

/-- SETP (R181). -/
def setpOn (index : Byte) (value : Half) (s : Block E S) : Host.Outcome (Block E S) Fault Refusal :=
  accepted (.setp index value) (setParam index value) s

/-- GETP (R182): the raw value, sign-extended to 32 bits. -/
def getpOn (index : Byte) (s : Block E S) : Host.Outcome (Block E S) Fault Refusal :=
  accepted (.getp index) (fun t => respond ((getParam index t).signExtend 32) t) s

/-- GETSTR (R183). -/
def getstrOn (index : Byte) (value : Half) (s : Block E S) : Host.Outcome (Block E S) Fault Refusal :=
  accepted (.getstr index value) (respond (paramStringId index value)) s

/-- LOADP (R184). -/
def loadpOn (preset : Byte) (s : Block E S) : Host.Outcome (Block E S) Fault Refusal :=
  accepted (.loadp preset) (loadPreset preset) s

/-- GETPI (R185): `preset_index`, zero-extended. -/
def getpiOn (s : Block E S) : Host.Outcome (Block E S) Fault Refusal :=
  accepted .getpi (fun t => respond (t.presetIndex.zeroExtend 32) t) s

/-- GETPN (R186). -/
def getpnOn (preset : Byte) (s : Block E S) : Host.Outcome (Block E S) Fault Refusal :=
  accepted (.getpn preset) (respond (presetNameId preset)) s

/-! ## On the machine -/

/-- SETP (R181). -/
def execSetp (index : Byte) (value : Half) (s : State) : Host.Outcome State Fault Refusal :=
  onState (setpOn index value) s

/-- GETP (R182). -/
def execGetp (index : Byte) (s : State) : Host.Outcome State Fault Refusal := onState (getpOn index) s

/-- GETSTR (R183). -/
def execGetstr (index : Byte) (value : Half) (s : State) : Host.Outcome State Fault Refusal :=
  onState (getstrOn index value) s

/-- LOADP (R184). -/
def execLoadp (preset : Byte) (s : State) : Host.Outcome State Fault Refusal := onState (loadpOn preset) s

/-- GETPI (R185). -/
def execGetpi (s : State) : Host.Outcome State Fault Refusal := onState getpiOn s

/-- GETPN (R186). -/
def execGetpn (preset : Byte) (s : State) : Host.Outcome State Fault Refusal := onState (getpnOn preset) s

end Sys2Proof.Machine
end

