-- ==== Sys2Proof/Machine/Envelope.lean ====
section
/-! DEFINITION. Stage 1, the envelope scheduler (40_envelope.md). -/

namespace Sys2Proof.Machine

variable {E S : Type}

/-- `rate(m) = K_MS / (m · K_SR)`, for `m ≠ 0` (R90). -/
def rate (A : Arith E S) (m : E) : E := A.div (A.real kMs) (A.mul m (A.real kSr))

/-- `track(e, m) = if m = 0 then 0 else clamp01(e − rate(m))` (R92). -/
def track (A : Arith E S) (e m : E) : E :=
  if A.same m (A.real 0) then A.real 0 else A.clamp01 (A.sub e (rate A m))

/-- The three decay trackers (R92), independent of each other. -/
def decayTrackers (A : Arith E S) (P : ParamSet) (v : VoiceState E S) : VoiceState E S :=
  { v with
    pitchEnv := track A v.pitchEnv (ms A P .decay)
    osc2Env := track A v.osc2Env (ms A P .osc2Decay)
    clickEnv := track A v.clickEnv (ms A P .clickDecay) }

/-- Attack (R93): up by `rate(ATTACK)`, to Decay at 1. -/
def attackStep (A : Arith E S) (P : ParamSet) (v : VoiceState E S) : VoiceState E S :=
  let m := ms A P .attack
  if A.same m (A.real 0) then { v with ampEnv := A.real 1, envPhase := .decay }
  else
    let a := A.add v.ampEnv (rate A m)
    if A.atMost (A.real 1) a then { v with ampEnv := A.real 1, envPhase := .decay }
    else { v with ampEnv := A.clamp01 a }

/-- The decrement that R95 and R96 share: down by `rate(RELEASE)`, to Idle at 0. -/
def fallStep (A : Arith E S) (P : ParamSet) (v : VoiceState E S) : VoiceState E S :=
  let m := ms A P .release
  if A.same m (A.real 0) then { v with ampEnv := A.real 0, envPhase := .idle }
  else
    let a := A.sub v.ampEnv (rate A m)
    if A.atMost a (A.real 0) then { v with ampEnv := A.real 0, envPhase := .idle }
    else { v with ampEnv := A.clamp01 a }

/-- Decay (R95): it uses RELEASE, not DECAY (R94). -/
def decayStep (A : Arith E S) (P : ParamSet) (v : VoiceState E S) : VoiceState E S := fallStep A P v

/-- Release (R96): "same decrement formula". -/
def releaseStep (A : Arith E S) (P : ParamSet) (v : VoiceState E S) : VoiceState E S := fallStep A P v

/-- Stage 1 (R91): nothing in Idle; else the trackers, then the amplitude machine of the phase at the frame's start. -/
def envelopeStage (A : Arith E S) (P : ParamSet) (v : VoiceState E S) : VoiceState E S :=
  match v.envPhase with
  | .idle => v
  | .attack => attackStep A P (decayTrackers A P v)
  | .decay => decayStep A P (decayTrackers A P v)
  | .release => releaseStep A P (decayTrackers A P v)

end Sys2Proof.Machine
end

