-- ==== Sys2Proof/Machine/Oscillators.lean ====
section
/-! DEFINITION. Stage 2, the oscillator bank (41_oscillators.md). It reads the Voice State as stage 1 left it (R99 of
40_envelope.md); every signal is evaluated at the frame-start phase, and the phases advance last (R110). A draw is the
`n`-th value of the noise stream; a function that may draw answers the next draw's number too. -/

namespace Sys2Proof.Machine

variable {E S : Type}

/-- `sweep = hz(0) · (1 − pitch_env · pct(6))` (R111). -/
def sweep (A : Arith E S) (P : ParamSet) (v : VoiceState E S) : E :=
  A.mul (hz A P .pitch) (A.sub (A.real 1) (A.mul v.pitchEnv (pct A P .pitchCurve)))

/-- `osc2_freq = sweep · ratio(17)` (R111). -/
def osc2Freq (A : Arith E S) (P : ParamSet) (v : VoiceState E S) : E :=
  A.mul (sweep A P v) (ratio A P .osc2Ratio)

/-- `fm = S(phase_osc2) · pct(19) · osc2_env · K_FM` when the secondary oscillator is on and `pct(19) ≠ 0`, else 0
(R112). -/
def fmOffset (A : Arith E S) (P : ParamSet) (v : VoiceState E S) : S :=
  if isOn P .osc2En && !A.same (pct A P .fmAmount) (A.real 0) then
    A.scale (A.scale (A.scale (A.sine v.phaseOsc2) (pct A P .fmAmount)) v.osc2Env) (A.real kFm)
  else A.signal (A.real 0)

/-- `body_out = S(phase_body) · pct(2)` (R113). -/
def bodyOut (A : Arith E S) (P : ParamSet) (v : VoiceState E S) : S :=
  A.scale (A.sineOf v.phaseBody) (pct A P .bodyLevel)

/-- `body_freq = sweep + fm` (R114). -/
def bodyFreq (A : Arith E S) (P : ParamSet) (v : VoiceState E S) : S :=
  A.plus (A.signal (sweep A P v)) (fmOffset A P v)

/-- `W(k, p)` and the number of the next draw (R115): sine, sawtooth, triangle, pulse, noise; 0 and no draw for every
other choice. -/
def waveform (A : Arith E S) (noise : Nat → S) (k : Int) (p : E) (n : Nat) : S × Nat :=
  match k with
  | 0 => (A.sine p, n)
  | 1 => (A.signal (A.sub (A.mul (A.real 2) p) (A.real 1)), n)
  | 2 =>
    (A.signal (A.mul (A.real 2) (A.sub (A.abs (A.sub (A.mul (A.real 2) p) (A.real 1))) (A.real (1 / 2)))), n)
  | 3 => (if A.less p (A.real kPw) then A.signal (A.real 1) else A.signal (A.real (-1)), n)
  | 4 => (noise n, n + 1)
  | _ => (A.signal (A.real 0), n)

/-- `osc2_out = W(choice(16), phase_osc2) · pct(18) · osc2_env` when on, else 0 and no draw (R116). -/
def osc2Out (A : Arith E S) (noise : Nat → S) (P : ParamSet) (v : VoiceState E S) (n : Nat) : S × Nat :=
  if isOn P .osc2En then
    let w := waveform A noise (choice P .osc2Wave) v.phaseOsc2 n
    (A.scale (A.scale w.1 (pct A P .osc2Level)) v.osc2Env, w.2)
  else (A.signal (A.real 0), n)

/-- `click_active = (env_phase ≠ Idle) and (click_env > 0)` (R117). -/
def clickActive (A : Arith E S) (v : VoiceState E S) : Bool :=
  !(v.envPhase == .idle) && A.less (A.real 0) v.clickEnv

/-- `blend = (1 − t) · n + t · S(phase_click)`, `t = pct(10)` (R118). -/
def clickBlend (A : Arith E S) (P : ParamSet) (v : VoiceState E S) (draw : S) : S :=
  A.plus (A.scale draw (A.sub (A.real 1) (pct A P .clickTone))) (A.scale (A.sine v.phaseClick) (pct A P .clickTone))

/-- `click_out = (blend − K_HP · last_click) · pct(7) · click_env · K_CLICK` (R118). -/
def clickLevelOut (A : Arith E S) (P : ParamSet) (v : VoiceState E S) (blend : S) : S :=
  A.scale (A.scale (A.scale (A.minus blend (A.scale v.lastClick (A.real kHp))) (pct A P .clickLevel)) v.clickEnv)
    (A.real kClick)

/-- `click_out`, the new `last_click` and the next draw's number: R118 when active (one draw, whatever the tone), R119
when not (no draw, history kept). -/
def clickOut (A : Arith E S) (noise : Nat → S) (P : ParamSet) (v : VoiceState E S) (n : Nat) : S × S × Nat :=
  if clickActive A v then
    let blend := clickBlend A P v (noise n)
    (clickLevelOut A P v blend, blend, n + 1)
  else (A.signal (A.real 0), v.lastClick, n)

/-- The three accumulators' advance (R120), in every frame. -/
def advancePhases (A : Arith E S) (P : ParamSet) (v : VoiceState E S) : VoiceState E S :=
  { v with
    phaseBody := A.wrap (A.plus v.phaseBody (A.divide (bodyFreq A P v) (A.real kSr)))
    phaseOsc2 :=
      A.frac (A.add v.phaseOsc2 (A.div (A.mul (osc2Freq A P v) (ratio A P .fmRatio)) (A.real kSr)))
    phaseClick := A.frac (A.add v.phaseClick (A.div (hz A P .clickFreq) (A.real kSr))) }

/-- What stage 2 leaves: its three signals, the Voice State and the next draw's number. -/
structure OscillatorResult (E S : Type) where
  body : S
  osc2 : S
  click : S
  voice : VoiceState E S
  draws : Nat

/-- Stage 2 (R110): all signals at the frame-start phases, the secondary's draw before the click's (R121), the phases
last. -/
def oscillatorStage (A : Arith E S) (noise : Nat → S) (P : ParamSet) (v : VoiceState E S) (n : Nat) :
    OscillatorResult E S :=
  let osc2 := osc2Out A noise P v n
  let click := clickOut A noise P v osc2.2
  { body := bodyOut A P v
    osc2 := osc2.1
    click := click.1
    voice := { advancePhases A P v with lastClick := click.2.1 }
    draws := click.2.2 }

end Sys2Proof.Machine
end

