-- ==== Sys2Proof/Machine/Mixer.lean ====
section
/-! DEFINITION. Stage 3, mixer and drive (42_mixer_drive.md). It holds no state. -/

namespace Sys2Proof.Machine

variable {E S : Type}

/-- `mix = body_out + osc2_out + click_out` (R140). -/
def mixSignals (A : Arith E S) (body osc2 click : S) : S := A.plus (A.plus body osc2) click

/-- `tanh(mix · (1 + K_DRV_IN · d)) · (1 / (1 + K_DRV_OUT · d))` for `d = pct(3) > 0`, else `mix` (R141). -/
def driveStage (A : Arith E S) (P : ParamSet) (mix : S) : S :=
  let d := pct A P .drive
  if A.less (A.real 0) d then
    A.scale (A.tanh (A.scale mix (A.add (A.real 1) (A.mul (A.real kDrvIn) d))))
      (A.div (A.real 1) (A.add (A.real 1) (A.mul (A.real kDrvOut) d)))
  else mix

end Sys2Proof.Machine
end

