-- ==== Sys2Proof/Machine/Filter.lean ====
section
/-! DEFINITION. Stage 4, the resonant filter (43_filter.md), KS's formulas as transcribed
(93_implementation_defined.md I11). -/

namespace Sys2Proof.Machine

variable {E S : Type}

/-- `f = (pct(12) · K_CUT_MUL + K_CUT_ADD) · K_F` (R151). -/
def filterCoeff (A : Arith E S) (P : ParamSet) : E :=
  A.mul (A.add (A.mul (pct A P .cutoff) (A.real kCutMul)) (A.real kCutAdd)) (A.real kF)

/-- `f²`. -/
def squared (A : Arith E S) (f : E) : E := A.mul f f

/-- `f⁴`. -/
def fourthPower (A : Arith E S) (f : E) : E := A.mul (squared A f) (squared A f)

/-- `fb = pct(13) · K_FB2 · (1 − K_FB2F · f²)`, 12 dB (R152). -/
def feedback12 (A : Arith E S) (P : ParamSet) (f : E) : E :=
  A.mul (A.mul (pct A P .resonance) (A.real kFb2)) (A.sub (A.real 1) (A.mul (A.real kFb2F) (squared A f)))

/-- `fb = pct(13) · K_FB4 · (1 − K_FB4F · f²)`, 24 dB (R154). -/
def feedback24 (A : Arith E S) (P : ParamSet) (f : E) : E :=
  A.mul (A.mul (pct A P .resonance) (A.real kFb4)) (A.sub (A.real 1) (A.mul (A.real kFb4F) (squared A f)))

/-- One stage: its input plus `K_POLE` times its own previous value (R153, R155). -/
def poleStep (A : Arith E S) (input old : S) : S := A.plus input (A.scale old (A.real kPole))

/-- The cascade's input `u = (mixed − fb · last) · K_IN · gain`, `last` the previous frame's output (R153, R155). -/
def filterInput (A : Arith E S) (mixed last : S) (fb gain : E) : S :=
  A.scale (A.scale (A.minus mixed (A.scale last fb)) (A.real kIn)) gain

/-- The 12 dB stages (R153): output `s[1]`; stages 2 and 3 are neither read nor written. -/
def filter12 (A : Arith E S) (P : ParamSet) (mixed : S) (s : FilterStages S) : S × FilterStages S :=
  let f := filterCoeff A P
  let u := filterInput A mixed s.s1 (feedback12 A P f) (squared A f)
  let s0 := poleStep A u s.s0
  let s1 := poleStep A s0 s.s1
  (s1, { s with s0 := s0, s1 := s1 })

/-- The 24 dB stages (R155): output `s[3]`. -/
def filter24 (A : Arith E S) (P : ParamSet) (mixed : S) (s : FilterStages S) : S × FilterStages S :=
  let f := filterCoeff A P
  let u := filterInput A mixed s.s3 (feedback24 A P f) (fourthPower A f)
  let s0 := poleStep A u s.s0
  let s1 := poleStep A s0 s.s1
  let s2 := poleStep A s1 s.s2
  let s3 := poleStep A s2 s.s3
  (s3, ⟨s0, s1, s2, s3⟩)

/-- Stage 4 (R150): exact bypass when FILTER_EN is off (R156), 24 dB when FILTER_MODE is on, 12 dB otherwise. -/
def filterStep (A : Arith E S) (P : ParamSet) (mixed : S) (s : FilterStages S) : S × FilterStages S :=
  if !isOn P .filterEn then (mixed, s)
  else if isOn P .filterMode then filter24 A P mixed s
  else filter12 A P mixed s

end Sys2Proof.Machine
end

