-- ==== Sys2Proof/Machine/Output.lean ====
section
/-! DEFINITION. Stage 5, the frame and its repetition (44_output_render.md R165 to R169), for any realisation of the
arithmetic and any noise stream. -/

namespace Sys2Proof.Machine

variable {E S : Type}

/-- `out = clip(filtered · K_OUT · (amp_env · current_velocity))` (R165). -/
def outputSample (A : Arith E S) (v : VoiceState E S) (filtered : S) : S :=
  A.clip (A.scale (A.scale filtered (A.real kOut)) (A.mul v.ampEnv v.currentVelocity))

/-- What a frame reads and writes beside the parameters: the Voice State, the number of the next draw, and OUT. -/
structure Engine (E S : Type) where
  voice : VoiceState E S
  draws : Nat
  out : List (StereoFrame S)

/-- `FRAME()` (R168): the five stages in order, each on the Voice State as the earlier ones left it, and
`emit(out, out)` (R166). -/
def frame (A : Arith E S) (noise : Nat → S) (P : ParamSet) (g : Engine E S) : Engine E S :=
  let v := envelopeStage A P g.voice
  let osc := oscillatorStage A noise P v g.draws
  let mixed := driveStage A P (mixSignals A osc.body osc.osc2 osc.click)
  let filt := filterStep A P mixed osc.voice.filterStage
  let v' := { osc.voice with filterStage := filt.2 }
  let out := outputSample A v' filt.1
  { voice := v', draws := osc.draws, out := g.out ++ [⟨out, out⟩] }

/-- `n` frames "in strict sequence", each on the state the one before left (R169). -/
def frames (A : Arith E S) (noise : Nat → S) (P : ParamSet) : Nat → Engine E S → Engine E S
  | 0, g => g
  | n + 1, g => frames A noise P n (frame A noise P g)

/-- The noise draws of the machine's own arithmetic: the `n`-th draw stays a free value (41_oscillators.md R121). -/
def drawSignal (n : Nat) : Signal := Signal.ofAtom (.draw n)

/-- The block's engine part. -/
def Block.engine (s : Block E S) : Engine E S := ⟨s.voice, s.draws, s.out⟩

/-- The block with another engine part. -/
def Block.withEngine (s : Block E S) (g : Engine E S) : Block E S :=
  { s with voice := g.voice, draws := g.draws, out := g.out }

/-- The machine with another engine part. -/
def State.withEngine (s : State) (g : Engine ℚ Signal) : State where
  toBlock := s.toBlock.withEngine g

/-- `n` frames of the block (R169). -/
def renderFrames (A : Arith E S) (noise : Nat → S) (n : Nat) (s : Block E S) : Block E S :=
  s.withEngine (frames A noise s.params n s.engine)

end Sys2Proof.Machine
end

