-- ==== Sys2Proof/Machine/Render.lean ====
section
/-! DEFINITION. The RENDER command (44_output_render.md R169), on the block of any realisation and on the machine. It
passes the acceptance checks of 30_encoding.md R66. -/

namespace Sys2Proof.Machine

/-- RENDER (R169): `n` frames, none for `n = 0`. -/
def renderOn {E S : Type} (A : Arith E S) (noise : Nat → S) (count : Half) (s : Block E S) :
    Host.Outcome (Block E S) Fault Refusal :=
  accepted (.render count) (renderFrames A noise count.toNat) s

/-- RENDER on the machine: exact arithmetic, each draw a free value (00_scope.md R7, 41_oscillators.md R121). -/
def execRender (count : Half) (s : State) : Host.Outcome State Fault Refusal :=
  onState (renderOn Arith.exact drawSignal count) s

end Sys2Proof.Machine
end

