-- ==== Sys2Proof/Machine/Dispatch.lean ====
section
/-! DEFINITION. One arm per command (30_encoding.md R62): execute the command's rule. -/

namespace Sys2Proof.Machine

def exec (i : Instr) (s : State) : Host.Outcome State Fault Refusal :=
  match i with
  | .init channels rate => Sys2Proof.Machine.execInit channels rate s
  | .reset => Sys2Proof.Machine.execReset s
  | .teardown => Sys2Proof.Machine.execTeardown s
  | .suspend => Sys2Proof.Machine.execSuspend s
  | .resume => Sys2Proof.Machine.execResume s
  | .setp index value => Sys2Proof.Machine.execSetp index value s
  | .getp index => Sys2Proof.Machine.execGetp index s
  | .getstr index value => Sys2Proof.Machine.execGetstr index value s
  | .loadp preset => Sys2Proof.Machine.execLoadp preset s
  | .getpi => Sys2Proof.Machine.execGetpi s
  | .getpn preset => Sys2Proof.Machine.execGetpn preset s
  | .noteon note velocity => Sys2Proof.Machine.execNoteon note velocity s
  | .noteoff note => Sys2Proof.Machine.execNoteoff note s
  | .pbend bend => Sys2Proof.Machine.execPbend bend s
  | .chprs pressure => Sys2Proof.Machine.execChprs pressure s
  | .atouch note pressure => Sys2Proof.Machine.execAtouch note pressure s
  | .render count => Sys2Proof.Machine.execRender count s

end Sys2Proof.Machine
end

