-- ==== Sys2Proof/Machine/Step.lean ====
section
/-! DEFINITION. One turn of the loop of 30_encoding.md R66, and the host's placement of a command. -/

namespace Sys2Proof.Machine

/-- The loop of 30_encoding.md R66: `turn`, executing each command by `exec`. -/
def step (s : State) : Host.Outcome State Fault Refusal :=
  turn (fun i t => exec i { toBlock := t }) (fun t => { toBlock := t }) s.toBlock

/-- `s` with the table's word as the block's next command (log entry 7). -/
def State.withFetchWord (s : State) (nbits w : Nat) : State where
  toBlock := placeCommand (tableWord nbits w) s.toBlock

end Sys2Proof.Machine
end

