-- ==== Sys2Proof/Machine/Strings.lean ====
section
/-! DEFINITION. The texts that stand behind the string identifiers (45_parameters_presets.md R187), the classes of the
parameters and their names (10_state.md R26, R27), and the presets' names (R30). Only identifiers cross the port. -/

namespace Sys2Proof.Machine

/-- The placeholder's text (R187). -/
def placeholderText : String := "---"

/-- KS's preset names, in index order (10_state.md R30). -/
def presetName : Fin 5 → String
  | 0 => "Basic"
  | 1 => "Punchy"
  | 2 => "Sub Bass"
  | 3 => "FM Kick"
  | 4 => "Noise Attack"

/-- The text of an identifier GETPN answers, none for a word it never answers. -/
def presetText (id : Word) : Option String :=
  if h : id.toNat < 5 then some (presetName ⟨id.toNat, h⟩)
  else if id = idPlaceholder then some placeholderText
  else none

/-- The text of an identifier GETSTR answers, none for NONE and for a word it never answers. -/
def paramText (id : Word) : Option String :=
  if h : id.toNat < 5 then some (Config.waveName ⟨id.toNat, h⟩)
  else if id = idPlaceholder then some placeholderText
  else none

/-- The registers in index order (10_state.md R26). -/
def allParams : List Param :=
  [.pitch, .decay, .bodyLevel, .drive, .attack, .release, .pitchCurve, .clickLevel, .clickFreq, .clickDecay,
   .clickTone, .filterEn, .cutoff, .resonance, .filterMode, .osc2En, .osc2Wave, .osc2Ratio, .osc2Level, .fmAmount,
   .fmRatio, .osc2Decay]

/-- The register's name, which the assembler takes for its index (10_state.md R26, 30_encoding.md R68). -/
def paramName : Param → String
  | .pitch => "PITCH"
  | .decay => "DECAY"
  | .bodyLevel => "BODY_LEVEL"
  | .drive => "DRIVE"
  | .attack => "ATTACK"
  | .release => "RELEASE"
  | .pitchCurve => "PITCH_CURVE"
  | .clickLevel => "CLICK_LEVEL"
  | .clickFreq => "CLICK_FREQ"
  | .clickDecay => "CLICK_DECAY"
  | .clickTone => "CLICK_TONE"
  | .filterEn => "FILTER_EN"
  | .cutoff => "CUTOFF"
  | .resonance => "RESONANCE"
  | .filterMode => "FILTER_MODE"
  | .osc2En => "OSC2_EN"
  | .osc2Wave => "OSC2_WAVE"
  | .osc2Ratio => "OSC2_RATIO"
  | .osc2Level => "OSC2_LEVEL"
  | .fmAmount => "FM_AMOUNT"
  | .fmRatio => "FM_RATIO"
  | .osc2Decay => "OSC2_DECAY"

end Sys2Proof.Machine
end

