-- ==== Sys2Proof/Machine/Assembler.lean ====
section
/-! DEFINITION. The assembler (30_encoding.md R68, R69): a line of text to an `AsmLine`, and an `AsmLine` to command
words. The text functions work on lists of characters; case and blanks are a DESIGN CHOICE, log entry 14. -/

namespace Sys2Proof.Machine

/-! ## From lines to commands (R68, R69) -/

/-- The commands of `RENDER n` (R69): one for `n ≤ 65535`, else `RENDER 65535` repeated `floor(n / 65535)` times and
then `RENDER (n mod 65535)` if that is non-zero. -/
def renderCommands (n : Nat) : List Instr :=
  if n ≤ 65535 then [.render (BitVec.ofNat 16 n)]
  else
    List.replicate (n / 65535) (.render 65535)
      ++ (if n % 65535 = 0 then [] else [.render (BitVec.ofNat 16 (n % 65535))])

/-- The commands of a line, its operands taken modulo their fields' widths: meant for well-formed lines. -/
def lineCommands : AsmLine → List Instr
  | .init rate channels => [.init (BitVec.ofInt 8 channels) (BitVec.ofInt 16 rate)]
  | .reset => [.reset]
  | .teardown => [.teardown]
  | .suspend => [.suspend]
  | .resume => [.resume]
  | .setp index value => [.setp (BitVec.ofInt 8 index) (BitVec.ofInt 16 value)]
  | .getp index => [.getp (BitVec.ofInt 8 index)]
  | .getstr index value => [.getstr (BitVec.ofInt 8 index) (BitVec.ofInt 16 value)]
  | .loadp preset => [.loadp (BitVec.ofInt 8 preset)]
  | .getpi => [.getpi]
  | .getpn preset => [.getpn (BitVec.ofInt 8 preset)]
  | .noteon note velocity => [.noteon (BitVec.ofInt 8 note) (BitVec.ofInt 8 velocity)]
  | .noteoff note => [.noteoff (BitVec.ofInt 8 note)]
  | .pbend bend => [.pbend (BitVec.ofInt 16 bend)]
  | .chprs pressure => [.chprs (BitVec.ofInt 8 pressure)]
  | .atouch note pressure => [.atouch (BitVec.ofInt 8 note) (BitVec.ofInt 8 pressure)]
  | .render count => renderCommands count.toNat
  | .noteoffall => [.noteoff noteAll]
  | .setpreset preset => [.loadp (BitVec.ofInt 8 preset)]

/-- The words of a line, none when an operand does not fit its field: "an assembly error, never truncated" (R68). -/
def assemble (line : AsmLine) : Option (List Word) :=
  if line.wellFormed then some ((lineCommands line).map encode) else none

/-! ## From text to lines (R68) -/

/-- A digit's value in a base of at most 16. -/
def digitValue (base : Nat) (c : Char) : Option Nat :=
  let n := c.toNat
  let v :=
    if 48 ≤ n ∧ n ≤ 57 then n - 48
    else if 97 ≤ n ∧ n ≤ 102 then n - 87
    else if 65 ≤ n ∧ n ≤ 70 then n - 55
    else base
  if v < base then some v else none

/-- Digits of a base, most significant first, after a number already read. -/
def digitsValue (base : Nat) : Nat → List Char → Option Nat
  | acc, [] => some acc
  | acc, c :: rest =>
    match digitValue base c with
    | some d => digitsValue base (acc * base + d) rest
    | none => none

/-- A decimal or `0x` hexadecimal number (R68). -/
def naturalOf : List Char → Option Nat
  | [] => none
  | ['0', 'x'] => none
  | '0' :: 'x' :: digits => digitsValue 16 0 digits
  | digits => digitsValue 10 0 digits

/-- A number with an optional minus sign. -/
def integerOf : List Char → Option Int
  | '-' :: digits => (naturalOf digits).map fun n => -(n : Int)
  | digits => (naturalOf digits).map fun n => (n : Int)

/-- A parameter index: a number, or the register's name (R68). -/
def indexOf (text : List Char) : Option Int :=
  match allParams.find? fun p => (paramName p).toList == text with
  | some p => some (p.index.val : Int)
  | none => integerOf text

/-- The text without its leading blanks. -/
def dropBlanks : List Char → List Char
  | ' ' :: rest => dropBlanks rest
  | text => text

/-- The text without blanks at its ends. -/
def trimBlanks (text : List Char) : List Char := (dropBlanks (dropBlanks text).reverse).reverse

/-- The parts of a text between commas, trimmed. -/
def splitCommas (part : List Char) : List Char → List (List Char)
  | [] => [trimBlanks part.reverse]
  | ',' :: rest => trimBlanks part.reverse :: splitCommas [] rest
  | c :: rest => splitCommas (c :: part) rest

/-- The first word of a text and what follows it. -/
def firstWord (word : List Char) : List Char → List Char × List Char
  | [] => (word.reverse, [])
  | ' ' :: rest => (word.reverse, rest)
  | c :: rest => firstWord (c :: word) rest

/-- The comma-separated operands of a line: none for a blank text. -/
def operandsOf (text : List Char) : List (List Char) :=
  match trimBlanks text with
  | [] => []
  | t => splitCommas [] t

/-- The line a mnemonic and its operands spell (R68, R69). -/
def lineOf (name : String) (operands : List (List Char)) : Option AsmLine :=
  match operands with
  | [] =>
    if name = "RESET" then some .reset
    else if name = "TEARDOWN" then some .teardown
    else if name = "SUSPEND" then some .suspend
    else if name = "RESUME" then some .resume
    else if name = "GETPI" then some .getpi
    else if name = "NOTEOFFALL" then some .noteoffall
    else none
  | [x] =>
    if name = "GETP" then (indexOf x).map .getp
    else if name = "LOADP" then (integerOf x).map .loadp
    else if name = "GETPN" then (integerOf x).map .getpn
    else if name = "NOTEOFF" then (integerOf x).map .noteoff
    else if name = "PBEND" then (integerOf x).map .pbend
    else if name = "CHPRS" then (integerOf x).map .chprs
    else if name = "RENDER" then (integerOf x).map .render
    else if name = "SETPRESET" then (integerOf x).map .setpreset
    else none
  | [x, y] =>
    if name = "INIT" then (integerOf x).bind fun r => (integerOf y).map (.init r)
    else if name = "SETP" then (indexOf x).bind fun i => (integerOf y).map (.setp i)
    else if name = "GETSTR" then (indexOf x).bind fun i => (integerOf y).map (.getstr i)
    else if name = "NOTEON" then (integerOf x).bind fun n => (integerOf y).map (.noteon n)
    else if name = "ATOUCH" then (integerOf x).bind fun n => (integerOf y).map (.atouch n)
    else none
  | _ => none

/-- "One line per command, the mnemonic then comma-separated operands" (R68). -/
def parseLine (text : String) : Option AsmLine :=
  let parts := firstWord [] (trimBlanks text.toList)
  lineOf (String.ofList parts.1) (operandsOf parts.2)

/-- The words of a line of text. -/
def assembleText (text : String) : Option (List Word) := (parseLine text).bind assemble

end Sys2Proof.Machine
end

