-- ==== Sys2Proof/Machine/Reals.lean ====
section
/-! DEFINITION. The block's data as the real numbers they stand for (00_scope.md R7), for a noise stream that gives the
draws their values. Statements about samples and phases are made of these; nothing here runs. -/

namespace Sys2Proof.Machine

/-- A Voice State as reals. -/
noncomputable def realVoice (noise : Nat → ℝ) (v : Voice) : VoiceState ℝ ℝ where
  phaseBody := v.phaseBody.value noise
  phaseOsc2 := (v.phaseOsc2 : ℝ)
  phaseClick := (v.phaseClick : ℝ)
  ampEnv := (v.ampEnv : ℝ)
  pitchEnv := (v.pitchEnv : ℝ)
  osc2Env := (v.osc2Env : ℝ)
  clickEnv := (v.clickEnv : ℝ)
  envPhase := v.envPhase
  filterStage := ⟨v.filterStage.s0.value noise, v.filterStage.s1.value noise, v.filterStage.s2.value noise,
    v.filterStage.s3.value noise⟩
  lastClick := v.lastClick.value noise
  currentNote := v.currentNote
  currentVelocity := (v.currentVelocity : ℝ)

/-- A frame's samples as reals. -/
noncomputable def realFrame (noise : Nat → ℝ) (f : StereoFrame Signal) : StereoFrame ℝ :=
  ⟨f.left.value noise, f.right.value noise⟩

/-- The engine part as reals. -/
noncomputable def realEngine (noise : Nat → ℝ) (g : Engine ℚ Signal) : Engine ℝ ℝ :=
  ⟨realVoice noise g.voice, g.draws, g.out.map (realFrame noise)⟩

end Sys2Proof.Machine
end

