-- ==== Sys2Proof/Machine/OutputView.lean ====
section
/-! DEFINITION. OUT realised as binary words and placed in host memory (44_output_render.md R170, 20_memory.md R42 to
R44). The block's own OUT carries reals; these are views of it. Written for any ordered field with a floor, so that
they run on rationals and speak of reals. -/

namespace Sys2Proof.Machine

section
variable {K : Type} [Field K] [LinearOrder K] [FloorRing K]

/-- The integer nearest to `y`, ties to even. -/
def roundHalfEven (y : K) : Int :=
  let n := ⌊y⌋
  if y - (n : K) < 1 / 2 then n
  else if 1 / 2 < y - (n : K) then n + 1
  else if n % 2 = 0 then n
  else n + 1

/-- The largest exponent `e` not above the given one with `2^e ≤ a`, searched downwards over `fuel` values. -/
def exponentBelow : Nat → K → Int → Int
  | 0, _, e => e
  | fuel + 1, a, e => if (2 : K) ^ e ≤ a then e else exponentBelow fuel a (e - 1)

/-- The binary32 exponent of a magnitude: −126 to 127, −126 for the subnormals. -/
def binary32Exponent (a : K) : Int := exponentBelow 253 a 127

/-- The IEEE 754 binary32 word nearest to `x`, ties to even (R170): 1 sign bit, 8 exponent bits, 23 fraction bits. The
significand in units of the last place, counted on from the exponent below, carries into the exponent by itself.
PRESUMED: IEEE 754's format; a negative value that rounds to zero keeps its sign (DESIGN CHOICE); log entry 9. -/
def binary32 (x : K) : Word :=
  let e := binary32Exponent |x|
  let magnitude := (e + 126) * 2 ^ 23 + roundHalfEven (|x| * (2 : K) ^ (23 - e))
  let bits : Word := BitVec.ofInt 32 (min magnitude 0x7F800000)
  if x < 0 then 0x80000000 ||| bits else bits

/-- The rational that a finite binary32 word stands for. -/
def binary32Value (w : Word) : K :=
  let exponent := (w.extractLsb' 23 8).toNat
  let fraction := (w.extractLsb' 0 23).toNat
  let magnitude : K :=
    if exponent = 0 then (fraction : K) * (2 : K) ^ (-149 : Int)
    else ((2 ^ 23 + fraction : Nat) : K) * (2 : K) ^ ((exponent : Int) - 150)
  if w.msb then -magnitude else magnitude

/-- A binary32 word that is no infinity and no NaN. -/
def binary32Finite (w : Word) : Bool := decide (w.extractLsb' 23 8 ≠ 255#8)

/-- The 8 bytes of a frame: left, then right, each little-endian (20_memory.md R43). -/
def frameBytes (f : StereoFrame K) : List Byte := wordBytes (binary32 f.left) ++ wordBytes (binary32 f.right)

/-- Bytes laid out from an address on. -/
def cellsFrom : Nat → List Byte → List Host.Cell
  | _, [] => []
  | a, b :: rest => (a, b) :: cellsFrom (a + 1) rest

/-- The buffer of a RENDER's frames: frame `k` occupies 8 bytes at `base + 8·k` (20_memory.md R43). -/
def bufferCells (base : Nat) (fs : List (StereoFrame K)) : List Host.Cell :=
  cellsFrom base (fs.flatMap frameBytes)

end

/-- A RENDER into a host buffer (20_memory.md R43, R44): refused, with no step, when the base is no multiple of 4; else
the RENDER, and its frames' bytes for the noise stream that the draws take. -/
noncomputable def renderToBuffer (noise : Nat → ℝ) (base : Nat) (count : Half) (s : State) :
    Host.Outcome (State × List Host.Cell) Fault Refusal :=
  if base % 4 ≠ 0 then .refused (.misalignedBuffer base)
  else
    match exec (.render count) s with
    | .next t => .next (t, bufferCells base ((t.out.drop s.out.length).map (realFrame noise)))
    | .fault r => .fault r
    | .refused r => .refused r

end Sys2Proof.Machine
end

