-- ==== Sys2Proof/Safety.lean ====
section
/-! DEFINITION. What holds of the block in every state that a run reaches: the invariants the spec states of the Voice
State (10_state.md R22, R23), of `preset_index` (R31), of OUT (44_output_render.md R166, R167) and of the lifecycle and
fault registers (R32, 60_exceptions.md R251). -/

namespace Sys2Proof.Machine

/-- The Voice State's invariants (10_state.md R22, R23). `phase_body` may depend on draws, so its bound is for every
noise stream. -/
structure VoiceInv (v : Voice) : Prop where
  phaseBody : ∀ noise : Nat → ℝ, 0 ≤ v.phaseBody.value noise ∧ v.phaseBody.value noise < 1
  phaseOsc2 : 0 ≤ v.phaseOsc2 ∧ v.phaseOsc2 < 1
  phaseClick : 0 ≤ v.phaseClick ∧ v.phaseClick < 1
  ampEnv : 0 ≤ v.ampEnv ∧ v.ampEnv ≤ 1
  pitchEnv : 0 ≤ v.pitchEnv ∧ v.pitchEnv ≤ 1
  osc2Env : 0 ≤ v.osc2Env ∧ v.osc2Env ≤ 1
  clickEnv : 0 ≤ v.clickEnv ∧ v.clickEnv ≤ 1
  currentVelocity : 0 ≤ v.currentVelocity ∧ v.currentVelocity ≤ 255 / 127
  idleSilent : v.envPhase = .idle → v.ampEnv = 0

/-- A frame's two samples are one, within [−1, 1] whatever the draws (44_output_render.md R166, R167). -/
def FrameInv (f : StereoFrame Signal) : Prop :=
  f.left = f.right ∧ ∀ noise : Nat → ℝ, -1 ≤ f.left.value noise ∧ f.left.value noise ≤ 1

/-- The fault register agrees with the lifecycle register (60_exceptions.md R251): code 2 is raised in UNINIT only and
code 3 in FAILED only; with no fault the fault word is still 0 (10_state.md R32). -/
def FaultInv (s : State) : Prop :=
  (s.fault = some .notInitialised → s.life = .uninit) ∧
  (s.fault = some .useAfterFailedInit → s.life = .failed) ∧
  (s.fault = none → s.faultWord = 0)

/-- The block's invariant. -/
structure Inv (s : State) : Prop where
  voice : VoiceInv s.voice
  presetIndex : s.presetIndex.toNat ≤ 4
  out : ∀ f ∈ s.out, FrameInv f
  fault : FaultInv s

end Sys2Proof.Machine
end

