-- ==== Sys2Proof/Certificates/Slice0/Obligations.lean ====
section
/-! DEFINITION. What the provers are asked to prove. Each statement's docstring names the rules of spec/ it formalises.
`Sys2Proof.Claims` holds the plain formulas the statements compare the machine with, written from the rules without
the machine's own operations. -/

namespace Sys2Proof.Claims

open Sys2Proof.Machine

/-- The 17 opcodes of 30_encoding.md R62. -/
def definedOpcodes : List Byte :=
  [0x01, 0x02, 0x03, 0x04, 0x05, 0x10, 0x11, 0x12, 0x18, 0x19, 0x1A, 0x20, 0x21, 0x22, 0x23, 0x24, 0x30]

/-- The bits that 30_encoding.md R62 marks must-be-zero for an opcode. -/
def mustBeZero (opc : Byte) : Word :=
  if opc ∈ [(0x02 : Byte), 0x03, 0x04, 0x05, 0x19] then 0x00FFFFFF
  else if opc ∈ [(0x11 : Byte), 0x18, 0x1A, 0x21] then 0x0000FFFF
  else if opc ∈ [(0x20 : Byte), 0x24] then 0x0000FF00
  else if opc ∈ [(0x22 : Byte), 0x30] then 0x00FF0000
  else if opc = 0x23 then 0x00FFFF00
  else 0

/-- A word that 30_encoding.md R65 calls illegal. -/
def illegalWord (w : Word) : Prop :=
  w.extractLsb' 24 8 ∉ definedOpcodes ∨ w &&& mustBeZero (w.extractLsb' 24 8) ≠ 0

/-- The register's number in the table of 10_state.md R26. -/
def registerNumber : Param → Fin 22
  | .pitch => 0
  | .decay => 1
  | .bodyLevel => 2
  | .drive => 3
  | .attack => 4
  | .release => 5
  | .pitchCurve => 6
  | .clickLevel => 7
  | .clickFreq => 8
  | .clickDecay => 9
  | .clickTone => 10
  | .filterEn => 11
  | .cutoff => 12
  | .resonance => 13
  | .filterMode => 14
  | .osc2En => 15
  | .osc2Wave => 16
  | .osc2Ratio => 17
  | .osc2Level => 18
  | .fmAmount => 19
  | .fmRatio => 20
  | .osc2Decay => 21

/-- The register's class in the table of 10_state.md R26. -/
def registerClass : Param → ParamClass
  | .pitch | .clickFreq => .hz
  | .decay | .attack | .release | .clickDecay | .osc2Decay => .ms
  | .bodyLevel | .drive | .pitchCurve | .clickLevel | .clickTone | .cutoff | .resonance | .osc2Level | .fmAmount =>
    .percent
  | .osc2Ratio | .fmRatio => .ratio
  | .filterEn | .filterMode | .osc2En => .onOff
  | .osc2Wave => .choice

/-- The raw value of a parameter as an integer (10_state.md R25), read from its register by number. -/
def rawInt (P : ParamSet) (p : Param) : Int := (P[registerNumber p]).toInt

/-- The raw value of a parameter as a rational. -/
def raw (s : State) (p : Param) : ℚ := (rawInt s.params p : ℚ)

/-- `rate(m) = 1000 / (m · 48000)` (40_envelope.md R90). -/
def rateOf (m : ℚ) : ℚ := 1000 / (m * 48000)

/-- `clamp01` (00_scope.md R10). -/
def clamped (q : ℚ) : ℚ := min 1 (max 0 q)

/-- `S(p)` (00_scope.md R10). -/
noncomputable def turnSine (x : ℝ) : ℝ := Real.sin (2 * Real.pi * x)

/-- `clip` (00_scope.md R10). -/
noncomputable def limited (x : ℝ) : ℝ := min 1 (max (-1) x)

/-- `W(k, p)` with the draw numbered `n` (41_oscillators.md R115). -/
noncomputable def wave (noise : Nat → ℝ) (k : Int) (p : ℚ) (n : Nat) : ℝ :=
  if k = 0 then turnSine p
  else if k = 1 then 2 * (p : ℝ) - 1
  else if k = 2 then 2 * (|2 * (p : ℝ) - 1| - 1 / 2)
  else if k = 3 then (if p < 1 / 2 then 1 else -1)
  else if k = 4 then noise n
  else 0

/-- Whether a frame's secondary oscillator draws (41_oscillators.md R116, R121). -/
def osc2Draws (s : State) : Nat := if 0 < raw s .osc2En ∧ raw s .osc2Wave = 4 then 1 else 0

/-- The click is active in the Voice State stage 1 left (41_oscillators.md R117). -/
def clickOn (v : Voice) : Prop := v.envPhase ≠ .idle ∧ 0 < v.clickEnv

/-- `blend` (41_oscillators.md R118): `s` is the state before the frame. -/
noncomputable def blendOf (noise : Nat → ℝ) (s : State) : ℝ :=
  (1 - (raw s .clickTone : ℝ) / 100) * noise (s.draws + osc2Draws s)
    + (raw s .clickTone : ℝ) / 100 * turnSine s.voice.phaseClick

/-- `sweep` (41_oscillators.md R111), `e` the pitch tracker as stage 1 left it. -/
def sweepOf (s : State) (e : ℚ) : ℚ := raw s .pitch * (1 - e * (raw s .pitchCurve / 100))

/-- `fm` (41_oscillators.md R112), `e` the osc2 tracker as stage 1 left it. -/
noncomputable def fmOf (s : State) (e : ℚ) : ℝ :=
  if 0 < raw s .osc2En ∧ raw s .fmAmount / 100 ≠ 0 then
    turnSine s.voice.phaseOsc2 * ((raw s .fmAmount : ℝ) / 100) * e * 100
  else 0

open Classical in
/-- `mix` (42_mixer_drive.md R140): `s` the state before the frame, `v` the Voice State after it. -/
noncomputable def mixOf (noise : Nat → ℝ) (s : State) (v : Voice) : ℝ :=
  turnSine (s.voice.phaseBody.value noise) * ((raw s .bodyLevel : ℝ) / 100)
    + (if 0 < raw s .osc2En then
        wave noise (rawInt s.params .osc2Wave) s.voice.phaseOsc2 s.draws * ((raw s .osc2Level : ℝ) / 100) * v.osc2Env
      else 0)
    + (if clickOn v then
        (blendOf noise s - 0.7 * s.voice.lastClick.value noise) * ((raw s .clickLevel : ℝ) / 100) * v.clickEnv * 3
      else 0)

/-- `mixed` (42_mixer_drive.md R141). -/
noncomputable def mixedOf (s : State) (mix : ℝ) : ℝ :=
  if 0 < raw s .drive then
    Real.tanh (mix * (1 + 4 * ((raw s .drive : ℝ) / 100))) * (1 / (1 + 1.5 * ((raw s .drive : ℝ) / 100)))
  else mix

/-- `f` (43_filter.md R151). -/
noncomputable def coefficient (P : ParamSet) : ℝ := ((rawInt P .cutoff : ℝ) / 100 * 0.9 + 0.1) * 1.16

/-- `u` of the 12 dB mode (43_filter.md R152, R153). -/
noncomputable def input12 (P : ParamSet) (mixed s1 : ℝ) : ℝ :=
  (mixed - (rawInt P .resonance : ℝ) / 100 * 2.5 * (1 - 0.2 * coefficient P ^ 2) * s1) * 0.35013 * coefficient P ^ 2

/-- `u` of the 24 dB mode (43_filter.md R154, R155). -/
noncomputable def input24 (P : ParamSet) (mixed s3 : ℝ) : ℝ :=
  (mixed - (rawInt P .resonance : ℝ) / 100 * 4 * (1 - 0.15 * coefficient P ^ 2) * s3) * 0.35013 * coefficient P ^ 4

/-- `filtered` (43_filter.md R150, R153, R155) from the stages' values before the frame. -/
noncomputable def filteredOf (P : ParamSet) (mixed s0 s1 s2 s3 : ℝ) : ℝ :=
  if 0 < rawInt P .filterEn then
    if 0 < rawInt P .filterMode then
      input24 P mixed s3 + 0.3 * s0 + 0.3 * s1 + 0.3 * s2 + 0.3 * s3
    else input12 P mixed s1 + 0.3 * s0 + 0.3 * s1
  else mixed

/-- The Voice State's reset column (10_state.md R20). -/
def zeroVoice : Voice :=
  { phaseBody := .const 0, phaseOsc2 := 0, phaseClick := 0, ampEnv := 0, pitchEnv := 0, osc2Env := 0, clickEnv := 0,
    envPhase := .idle, filterStage := ⟨.const 0, .const 0, .const 0, .const 0⟩, lastClick := .const 0, currentNote := 0,
    currentVelocity := 0 }

/-- The line's operands fit their fields, in numbers (30_encoding.md R68; R69 for a RENDER's count, which may be any). -/
def lineFits : AsmLine → Prop
  | .init rate channels => 0 ≤ rate ∧ rate ≤ 65535 ∧ 0 ≤ channels ∧ channels ≤ 255
  | .setp index value => 0 ≤ index ∧ index ≤ 255 ∧ -32768 ≤ value ∧ value ≤ 32767
  | .getp index => 0 ≤ index ∧ index ≤ 255
  | .getstr index value => 0 ≤ index ∧ index ≤ 255 ∧ -32768 ≤ value ∧ value ≤ 32767
  | .loadp preset => 0 ≤ preset ∧ preset ≤ 255
  | .getpn preset => 0 ≤ preset ∧ preset ≤ 255
  | .noteon note velocity => 0 ≤ note ∧ note ≤ 255 ∧ 0 ≤ velocity ∧ velocity ≤ 255
  | .noteoff note => 0 ≤ note ∧ note ≤ 255
  | .pbend bend => 0 ≤ bend ∧ bend ≤ 65535
  | .chprs pressure => 0 ≤ pressure ∧ pressure ≤ 255
  | .atouch note pressure => 0 ≤ note ∧ note ≤ 255 ∧ 0 ≤ pressure ∧ pressure ≤ 255
  | .render count => 0 ≤ count
  | .setpreset preset => 0 ≤ preset ∧ preset ≤ 255
  | .reset | .teardown | .suspend | .resume | .getpi | .noteoffall => True

/-- The commands are those the line writes, each operand the number written (30_encoding.md R61, R68, R69). -/
def lineSpells (is : List Instr) : AsmLine → Prop
  | .init rate channels => ∃ c r, is = [.init c r] ∧ (c.toNat : Int) = channels ∧ (r.toNat : Int) = rate
  | .reset => is = [.reset]
  | .teardown => is = [.teardown]
  | .suspend => is = [.suspend]
  | .resume => is = [.resume]
  | .setp index value => ∃ a v, is = [.setp a v] ∧ (a.toNat : Int) = index ∧ v.toInt = value
  | .getp index => ∃ a, is = [.getp a] ∧ (a.toNat : Int) = index
  | .getstr index value => ∃ a v, is = [.getstr a v] ∧ (a.toNat : Int) = index ∧ v.toInt = value
  | .loadp preset => ∃ a, is = [.loadp a] ∧ (a.toNat : Int) = preset
  | .getpi => is = [.getpi]
  | .getpn preset => ∃ a, is = [.getpn a] ∧ (a.toNat : Int) = preset
  | .noteon note velocity => ∃ a b, is = [.noteon a b] ∧ (a.toNat : Int) = note ∧ (b.toNat : Int) = velocity
  | .noteoff note => ∃ a, is = [.noteoff a] ∧ (a.toNat : Int) = note
  | .pbend bend => ∃ u, is = [.pbend u] ∧ (u.toNat : Int) = bend
  | .chprs pressure => ∃ b, is = [.chprs b] ∧ (b.toNat : Int) = pressure
  | .atouch note pressure => ∃ a b, is = [.atouch a b] ∧ (a.toNat : Int) = note ∧ (b.toNat : Int) = pressure
  | .render count =>
    if count ≤ 65535 then ∃ u, is = [.render u] ∧ (u.toNat : Int) = count
    else ∃ u, (u.toNat : Int) = count % 65535 ∧
      is = List.replicate (count / 65535).toNat (.render 0xFFFF) ++ if count % 65535 = 0 then [] else [.render u]
  | .noteoffall => is = [.noteoff 0xFF]
  | .setpreset preset => ∃ a, is = [.loadp a] ∧ (a.toNat : Int) = preset

/-- Commands run one after the other. -/
def runCommands : List Instr → State → Host.Outcome State Fault Refusal
  | [], s => .next s
  | i :: rest, s =>
    match exec i s with
    | .next t => runCommands rest t
    | .fault r => .fault r
    | .refused r => .refused r

end Sys2Proof.Claims

open Sys2Proof Sys2Proof.Machine Sys2Proof.Claims

/-! ## Encoding -/

/-- Every command decodes from its own word (30_encoding.md R61, R62, R68). -/
def Obligations.DecodeEncodeRoundTrip : Prop := ∀ i : Instr, decode (encode i) = .ok i

/-- A word that spells a command is that command's word (30_encoding.md R61, R62, R65). -/
def Obligations.EncodeDecodeRoundTrip : Prop := ∀ (w : Word) (i : Instr), decode w = .ok i → encode i = w

/-- 30_encoding.md R63: a word spells a command exactly when it matches the command's row; at most one row matches. -/
def Obligations.WordSpellsTheRowItMatches : Prop :=
  (∀ (w : Word) (i : Instr), decode w = .ok i →
    ∃ r ∈ opcodeTable, r.mnemonic = mnemonic i ∧ w &&& r.mask = r.pattern) ∧
  (∀ (w : Word), ∀ r ∈ opcodeTable, w &&& r.mask = r.pattern →
    ∃ i, decode w = .ok i ∧ mnemonic i = r.mnemonic) ∧
  (∀ (w : Word), ∀ r ∈ opcodeTable, ∀ r' ∈ opcodeTable,
    w &&& r.mask = r.pattern → w &&& r'.mask = r'.pattern → r = r')

/-- Which words are illegal (30_encoding.md R65), and that an illegal word raises ILLEGAL_COMMAND and does nothing else
(in every lifecycle state: the check comes before the lifecycle's). That the illegal word is consumed from CMD is the
loop's (R66), as log entry 8 reads it. -/
def Obligations.IllegalWordRaisesIllegalCommand : Prop :=
  (∀ w : Word, (∃ e, decode w = .error e) ↔ illegalWord w) ∧
  (∀ (s : State) (w : Word) (rest : List Word), s.fault = none → s.cmd = w :: rest → illegalWord w →
    step s = .next { s with cmd := rest, fault := some .illegalCommand, faultWord := w })

/-- 30_encoding.md R61: each operand is its field of the word and nothing else. -/
def Obligations.OperandsAreTheirFields : Prop :=
  ∀ (w : Word) (i : Instr), decode w = .ok i →
    match i with
    | .init channels rate => channels = w.extractLsb' 16 8 ∧ rate = w.extractLsb' 0 16
    | .setp index value => index = w.extractLsb' 16 8 ∧ value = w.extractLsb' 0 16
    | .getp index => index = w.extractLsb' 16 8
    | .getstr index value => index = w.extractLsb' 16 8 ∧ value = w.extractLsb' 0 16
    | .loadp preset => preset = w.extractLsb' 16 8
    | .getpn preset => preset = w.extractLsb' 16 8
    | .noteon note velocity =>
      note = w.extractLsb' 16 8 ∧ velocity = w.extractLsb' 0 8 ∧ w.extractLsb' 8 8 = 0#8
    | .noteoff note => note = w.extractLsb' 16 8
    | .pbend bend => bend = w.extractLsb' 0 16
    | .chprs pressure => pressure = w.extractLsb' 0 8 ∧ w.extractLsb' 8 8 = 0#8
    | .atouch note pressure =>
      note = w.extractLsb' 16 8 ∧ pressure = w.extractLsb' 0 8 ∧ w.extractLsb' 8 8 = 0#8
    | .render count => count = w.extractLsb' 0 16
    | .reset | .teardown | .suspend | .resume | .getpi => True

/-- Words written out from 95_test_vectors.md decode to their commands. -/
def Obligations.VectorWordsDecode : Prop :=
  decode 0x0102BB80 = .ok (.init 2 48000) ∧ decode 0x1005FFFF = .ok (.setp 5 (-1)) ∧
  decode 0x12FF8000 = .ok (.getstr 255 0x8000) ∧ decode 0x18030000 = .ok (.loadp 3) ∧
  decode 0x2024007F = .ok (.noteon 36 127) ∧ decode 0x21FF0000 = .ok (.noteoff 255) ∧
  decode 0x24240064 = .ok (.atouch 36 100) ∧ decode 0x30000004 = .ok (.render 4) ∧
  decode 0x06000000 = .error .reservedOpcode ∧ decode 0x20240100 = .error .reservedField

/-- An assembler line is assembled exactly when every operand fits its field, and the words then decode to the commands
it writes, operand for operand: "never truncated" (30_encoding.md R68), the pseudo-instructions of R69 included. -/
def Obligations.AssemblerNeverTruncates : Prop :=
  (∀ line : AsmLine, (assemble line).isSome = true ↔ lineFits line) ∧
  (∀ (line : AsmLine) (ws : List Word), assemble line = some ws →
    ∃ is : List Instr, ws.map decode = is.map .ok ∧ lineSpells is line)

/-! ## The loop -/

/-- A step runs the decoded command: exec of it, on the state with the command's word consumed (30_encoding.md R66). -/
def Obligations.StepRunsTheDecodedCommand : Prop :=
  ∀ (s : State) (w : Word) (rest : List Word) (i : Instr), s.fault = none → s.cmd = w :: rest → decode w = .ok i →
    step s = exec i { s with cmd := rest }

/-- The whole loop, its checks in the order written (30_encoding.md R66, 60_exceptions.md R250, R253). The command's
word `w` is what a lifecycle fault records. That the wait for a word is a step to the same state is the model's reading,
log entry 8. -/
def Obligations.LoopChecksInOrder : Prop :=
  (∀ (s : State) (c : FaultCode), s.fault = some c → step s = .fault (.stuck c)) ∧
  (∀ s : State, s.fault = none → s.cmd = [] → step s = .next s) ∧
  (∀ (s : State) (w : Word) (rest : List Word), s.fault = none → s.cmd = w :: rest →
    (∀ e, decode w = .error e →
      step s = .next { s with cmd := rest, fault := some .illegalCommand, faultWord := w }) ∧
    (∀ i, decode w = .ok i → s.life = .failed →
      step s = .next { s with cmd := rest, fault := some .useAfterFailedInit, faultWord := w }) ∧
    (∀ i, decode w = .ok i → s.life = .uninit → (∀ c r, i ≠ .init c r) →
      step s = .next { s with cmd := rest, fault := some .notInitialised, faultWord := w }) ∧
    (∀ i, decode w = .ok i → (s.life = .ready ∨ s.life = .uninit ∧ ∃ c r, i = .init c r) →
      step s = exec i { s with cmd := rest } ∧ ∃ t, step s = .next t ∧ t.fault = none))

/-- Raising a fault writes `fault` and `fault_word` and nothing else; a block that holds a fault takes no further
command; power-on leaves the state (60_exceptions.md R250, 30_encoding.md R66). The word a lifecycle fault records is the
command's encoding (log entry 13); an illegal word is consumed, and a faulted block is stuck on an empty CMD too (log
entry 8). -/
def Obligations.FaultIsPreciseAndSticky : Prop :=
  (∀ (i : Instr) (s : State), s.fault = none → s.life = .failed →
    exec i s = .next { s with fault := some .useAfterFailedInit, faultWord := encode i }) ∧
  (∀ (i : Instr) (s : State), s.fault = none → s.life = .uninit → (∀ c r, i ≠ .init c r) →
    exec i s = .next { s with fault := some .notInitialised, faultWord := encode i }) ∧
  (∀ (s : State) (w : Word) (rest : List Word), s.fault = none → s.cmd = w :: rest → illegalWord w →
    step s = .next { s with cmd := rest, fault := some .illegalCommand, faultWord := w }) ∧
  (∀ (s : State) (c : FaultCode), s.fault = some c → step s = .fault (.stuck c)) ∧
  (∀ s : State, (powerOn s).fault = none ∧ (powerOn s).life = .uninit)

/-- The lifecycle register (10_state.md R32): only INIT writes it, to READY or FAILED; no step leaves FAILED, none goes
back to UNINIT, and none clears a fault: a step happens only when no fault is held, whether or not a word is on CMD
(60_exceptions.md R250, 30_encoding.md R66, log entry 8). -/
def Obligations.OnlyInitMovesTheLifecycle : Prop :=
  (∀ (i : Instr) (s t : State), exec i s = .next t → t.life ≠ s.life →
    (∃ c r, i = .init c r) ∧ s.life ≠ .failed ∧ (t.life = .ready ∨ t.life = .failed)) ∧
  (∀ s t : State, step s = .next t →
    (s.life = .failed → t.life = .failed) ∧ (s.life ≠ .uninit → t.life ≠ .uninit) ∧ s.fault = none)

/-- Power-on from any state, the state after reset, and that the block then waits for the first word on CMD
(70_reset_and_hazards.md R280). The draw count is the model's own field and is kept (log entry 3); the parameters are
the opaque `DefaultParams` (log entry 2); waiting is a step to the same state (log entry 8). -/
def Obligations.PowerOnState : Prop :=
  (∀ s : State, powerOn s = { State.reset with draws := s.draws }) ∧
  State.reset.voice = zeroVoice ∧ State.reset.params = Vector.ofFn Config.defaultParams ∧
  State.reset.presetIndex = 0 ∧ State.reset.life = .uninit ∧ State.reset.fault = none ∧
  State.reset.faultWord = 0 ∧ State.reset.cmd = [] ∧ State.reset.rsp = [] ∧ State.reset.out = [] ∧
  step State.reset = .next State.reset

/-! ## Lifecycle commands -/

/-- 47_lifecycle.md R230, R231, R236: INIT in UNINIT or READY. The sample rate is tested first. -/
def Obligations.InitValidatesAndConstructs : Prop :=
  ∀ (channels : Byte) (rate : Half) (s : State), s.life ≠ .failed →
    encode (.init channels rate) = 0x01#8 ++ channels ++ rate ∧
    (rate.toNat ≠ 48000 → exec (.init channels rate) s = .next { s with life := .failed, rsp := s.rsp ++ [1] }) ∧
    (rate.toNat = 48000 → channels.toNat ≠ 2 →
      exec (.init channels rate) s = .next { s with life := .failed, rsp := s.rsp ++ [2] }) ∧
    (rate.toNat = 48000 → channels.toNat = 2 →
      exec (.init channels rate) s = .next
        { s with
          voice := zeroVoice
          params := Vector.ofFn Config.defaultParams
          presetIndex := 0
          life := .ready
          rsp := s.rsp ++ [0] })

/-- 47_lifecycle.md R232: RESET zeroes every Voice State field and nothing else. -/
def Obligations.ResetZeroesTheVoiceState : Prop :=
  ∀ s : State, s.life = .ready →
    encode .reset = 0x02000000 ∧
    exec .reset s = .next { s with voice := zeroVoice }

/-- 47_lifecycle.md R233, R234, R235: TEARDOWN, SUSPEND and RESUME have no effect. -/
def Obligations.LifecycleHooksDoNothing : Prop :=
  ∀ s : State, s.life = .ready →
    (encode .teardown = 0x03000000 ∧ encode .suspend = 0x04000000 ∧ encode .resume = 0x05000000) ∧
    exec .teardown s = .next s ∧ exec .suspend s = .next s ∧ exec .resume s = .next s

/-! ## Parameters and presets -/

/-- 45_parameters_presets.md R181: SETP stores the raw value; an unknown index is ignored. -/
def Obligations.SetpStoresTheRawValue : Prop :=
  ∀ (index : Byte) (value : Half) (s : State), s.life = .ready →
    encode (.setp index value) = 0x10#8 ++ index ++ value ∧
    (∀ h : index.toNat < 22,
      exec (.setp index value) s = .next { s with params := s.params.set index.toNat value h }) ∧
    (22 ≤ index.toNat → exec (.setp index value) s = .next s)

/-- 45_parameters_presets.md R182: GETP answers the stored raw value, sign-extended, or 0 for an unknown index. -/
def Obligations.GetpAnswersTheRawValue : Prop :=
  ∀ (index : Byte) (s : State), s.life = .ready →
    encode (.getp index) = 0x11#8 ++ index ++ 0#16 ∧
    (∀ h : index.toNat < 22,
      exec (.getp index) s = .next { s with rsp := s.rsp ++ [BitVec.ofInt 32 (s.params[index.toNat]).toInt] }) ∧
    (22 ≤ index.toNat → exec (.getp index) s = .next { s with rsp := s.rsp ++ [0] })

/-- A GETP after a SETP of the same known index answers the value set, and a SETP of one index leaves what a GETP of
another index answers (10_state.md R25, R28; 45_parameters_presets.md R181, R182). -/
def Obligations.SetpThenGetpRoundTrip : Prop :=
  ∀ (index other : Byte) (value : Half) (s : State), s.life = .ready → index.toNat < 22 →
    ∃ t, exec (.setp index value) s = .next t ∧
      (∃ u, exec (.getp index) t = .next u ∧ u.rsp = s.rsp ++ [BitVec.ofInt 32 value.toInt]) ∧
      (other ≠ index → ∃ u u', exec (.getp other) t = .next u ∧ exec (.getp other) s = .next u' ∧ u.rsp = u'.rsp)

/-- 45_parameters_presets.md R183: GETSTR's identifier, from its operands alone. -/
def Obligations.GetstrAnswersTheIdentifier : Prop :=
  ∀ (index : Byte) (value : Half) (s : State), s.life = .ready →
    encode (.getstr index value) = 0x12#8 ++ index ++ value ∧
    exec (.getstr index value) s = .next
      { s with
        rsp := s.rsp ++
          [if index.toNat = 16 then
              if 0 ≤ value.toInt ∧ value.toInt ≤ 4 then BitVec.ofInt 32 value.toInt else 0xFF
            else if index.toNat ≤ 21 then 0xFE
            else 0xFF] }

/-- 45_parameters_presets.md R184: LOADP writes all 22 registers and `preset_index`, or nothing. -/
def Obligations.LoadpLoadsTheWholePreset : Prop :=
  ∀ (preset : Byte) (s : State), s.life = .ready →
    encode (.loadp preset) = 0x18#8 ++ preset ++ 0#16 ∧
    (∀ h : preset.toNat < 5, ∃ t, exec (.loadp preset) s = .next t ∧
      (∀ i : Fin 22, t.params[i] = Config.presetTable ⟨preset.toNat, h⟩ i) ∧ t.presetIndex = preset ∧
      t = { s with params := t.params, presetIndex := t.presetIndex }) ∧
    (5 ≤ preset.toNat → exec (.loadp preset) s = .next s)

/-- 45_parameters_presets.md R188: loading a preset twice is loading it once; P, then Q, then P restores P's exact
values. -/
def Obligations.PresetLoadsAreIdempotent : Prop :=
  ∀ (p q : Byte) (s : State), s.life = .ready →
    (∃ t, exec (.loadp p) s = .next t ∧ exec (.loadp p) t = .next t) ∧
    (p.toNat < 5 → ∃ t u v, exec (.loadp p) s = .next t ∧ exec (.loadp q) t = .next u ∧
      exec (.loadp p) u = .next v ∧ v = t)

/-- 45_parameters_presets.md R185: GETPI answers `preset_index`; 0 before any LOADP, and after
an accepted LOADP its operand, whatever SETP did since. -/
def Obligations.GetpiAnswersTheLastPreset : Prop :=
  (∃ t u, exec (.init 2 48000) State.reset = .next t ∧ exec .getpi t = .next u ∧ u.rsp = [0, 0]) ∧
  ∀ s : State, s.life = .ready →
    encode .getpi = 0x19000000 ∧
    exec .getpi s = .next { s with rsp := s.rsp ++ [BitVec.ofNat 32 s.presetIndex.toNat] } ∧
    (∀ (preset index : Byte) (value : Half), preset.toNat < 5 →
      ∃ t u v, exec (.loadp preset) s = .next t ∧ exec (.setp index value) t = .next u ∧ exec .getpi u = .next v ∧
        v.rsp = s.rsp ++ [BitVec.ofNat 32 preset.toNat])

/-- 45_parameters_presets.md R186: GETPN's identifier, from its operand alone. -/
def Obligations.GetpnAnswersTheNameIdentifier : Prop :=
  ∀ (preset : Byte) (s : State), s.life = .ready →
    encode (.getpn preset) = 0x1A#8 ++ preset ++ 0#16 ∧
    exec (.getpn preset) s = .next
      { s with rsp := s.rsp ++ [if preset.toNat ≤ 4 then BitVec.ofNat 32 preset.toNat else 0xFF] }

/-- 45_parameters_presets.md R180: the six parameter and preset commands write the Parameter Set, `preset_index` and
RSP only, and what they write there does not depend on the Voice State, the draws or OUT. -/
def Obligations.ParameterCommandsIgnoreTheVoice : Prop :=
  ∀ (i : Instr) (s : State) (v : Voice) (n : Nat) (o : List (StereoFrame Signal)), s.life = .ready →
    ((∃ a x, i = .setp a x) ∨ (∃ a, i = .getp a) ∨ (∃ a x, i = .getstr a x) ∨ (∃ p, i = .loadp p) ∨ i = .getpi ∨
      ∃ p, i = .getpn p) →
    ∃ t, exec i s = .next t ∧ t = { s with params := t.params, presetIndex := t.presetIndex, rsp := t.rsp } ∧
      exec i { s with voice := v, draws := n, out := o } = .next { t with voice := v, draws := n, out := o }

/-! ## Note events -/

/-- 46_note_events.md R210, R211: what NOTEON writes, and that it writes nothing else. -/
def Obligations.NoteonTriggersTheVoice : Prop :=
  ∀ (note velocity : Byte) (s : State), s.life = .ready →
    encode (.noteon note velocity) = 0x20#8 ++ note ++ 0#8 ++ velocity ∧
    exec (.noteon note velocity) s = .next
      { s with
        voice :=
          { s.voice with
            envPhase := .attack
            ampEnv := 0
            pitchEnv := 1
            osc2Env := 1
            clickEnv := 1
            filterStage := ⟨.const 0, .const 0, .const 0, .const 0⟩
            lastClick := .const 0
            currentNote := note
            currentVelocity := (velocity.toNat : ℚ) / 127 } }

/-- 46_note_events.md R212, R213: NOTEOFF moves Attack or Decay to Release when the note matches or is 255, and else
does nothing. -/
def Obligations.NoteoffReleasesAMatchingNote : Prop :=
  ∀ (note : Byte) (s : State), s.life = .ready →
    encode (.noteoff note) = 0x21#8 ++ note ++ 0#16 ∧
    ((note = s.voice.currentNote ∨ note.toNat = 255) → (s.voice.envPhase = .attack ∨ s.voice.envPhase = .decay) →
      exec (.noteoff note) s = .next { s with voice := { s.voice with envPhase := .release } }) ∧
    (¬ (note = s.voice.currentNote ∨ note.toNat = 255) ∨ s.voice.envPhase = .release ∨ s.voice.envPhase = .idle →
      exec (.noteoff note) s = .next s)

/-- 46_note_events.md R214, R215, R216: pitch-bend, channel-pressure and aftertouch have no effect. -/
def Obligations.IgnoredEventsDoNothing : Prop :=
  ∀ (bend : Half) (note pressure : Byte) (s : State), s.life = .ready →
    (encode (.pbend bend) = 0x22#8 ++ 0#8 ++ bend ∧ encode (.chprs pressure) = 0x23#8 ++ 0#16 ++ pressure ∧
      encode (.atouch note pressure) = 0x24#8 ++ note ++ 0#8 ++ pressure) ∧
    exec (.pbend bend) s = .next s ∧ exec (.chprs pressure) s = .next s ∧ exec (.atouch note pressure) s = .next s

/-! ## Whole-machine rules over all commands -/

/-- 30_encoding.md R64: which commands answer, one word each, and the words' formats; a command that faults answers
nothing. -/
def Obligations.OneResponsePerAnsweringCommand : Prop :=
  ∀ (i : Instr) (s : State), ∃ t, exec i s = .next t ∧
    ((s.life = .failed ∨ s.life = .uninit ∧ ∀ c r, i ≠ .init c r) → t.rsp = s.rsp) ∧
    ((s.life = .ready ∨ s.life = .uninit ∧ ∃ c r, i = .init c r) →
      t.rsp = s.rsp ++
        match i with
        | .init c r => [if r.toNat ≠ 48000 then 1 else if c.toNat ≠ 2 then 2 else 0]
        | .getp a =>
          [if h : a.toNat < 22 then BitVec.ofInt 32 (s.params[a.toNat]).toInt else 0]
        | .getstr a x =>
          [if a.toNat = 16 then (if 0 ≤ x.toInt ∧ x.toInt ≤ 4 then BitVec.ofInt 32 x.toInt else 0xFF)
            else if a.toNat ≤ 21 then 0xFE else 0xFF]
        | .getpi => [BitVec.ofNat 32 s.presetIndex.toNat]
        | .getpn p => [if p.toNat ≤ 4 then BitVec.ofNat 32 p.toNat else 0xFF]
        | .reset | .teardown | .suspend | .resume | .setp _ _ | .loadp _ | .noteon _ _ | .noteoff _ | .pbend _
        | .chprs _ | .atouch _ _ | .render _ => [])

/-- No command reads the Voice State but to produce samples (10_state.md R24): two states that differ only in the Voice
State, the draws and OUT answer the same words and leave the same parameters, preset index, lifecycle, fault and
CMD. -/
def Obligations.NoReadbackOfTheVoiceState : Prop :=
  ∀ (i : Instr) (s : State) (v : Voice) (n : Nat) (o : List (StereoFrame Signal)),
    ∃ t u, exec i s = .next t ∧ exec i { s with voice := v, draws := n, out := o } = .next u ∧
      u.rsp = t.rsp ∧ u.params = t.params ∧ u.presetIndex = t.presetIndex ∧ u.life = t.life ∧ u.fault = t.fault ∧
      u.faultWord = t.faultWord ∧ u.cmd = t.cmd

/-- 40_envelope.md R98: the complete transition relation of `env_phase`, command by command, a RENDER frame by
frame. -/
def Obligations.EnvelopePhaseTransitions : Prop :=
  ∀ (i : Instr) (s : State), s.life = .ready → (∀ n, i = .render n → n.toNat ≤ 1) →
    ∃ t, exec i s = .next t ∧
      (t.voice.envPhase = s.voice.envPhase ∨
        (t.voice.envPhase = .attack ∧ ∃ n b, i = .noteon n b) ∨
        (s.voice.envPhase = .attack ∧ t.voice.envPhase = .decay ∧ i = .render 1 ∧
          (raw s .attack = 0 ∨ 1 ≤ s.voice.ampEnv + rateOf (raw s .attack))) ∨
        ((s.voice.envPhase = .decay ∨ s.voice.envPhase = .release) ∧ t.voice.envPhase = .idle ∧ i = .render 1 ∧
          (raw s .release = 0 ∨ s.voice.ampEnv - rateOf (raw s .release) ≤ 0)) ∨
        ((s.voice.envPhase = .attack ∨ s.voice.envPhase = .decay) ∧ t.voice.envPhase = .release ∧
          ∃ n, i = .noteoff n ∧ (n = s.voice.currentNote ∨ n = 255)) ∨
        (t.voice.envPhase = .idle ∧ (i = .reset ∨ i = .init 2 48000)))

/-! ## The envelope scheduler -/

/-- 40_envelope.md R91, R92: the trackers of one frame. -/
def Obligations.TrackersDecayLinearly : Prop :=
  ∀ s : State, s.life = .ready → ∃ t, exec (.render 1) s = .next t ∧
    (s.voice.envPhase = .idle → t.voice.pitchEnv = s.voice.pitchEnv ∧ t.voice.osc2Env = s.voice.osc2Env ∧
      t.voice.clickEnv = s.voice.clickEnv) ∧
    (s.voice.envPhase ≠ .idle →
      t.voice.pitchEnv =
        (if raw s .decay = 0 then 0 else clamped (s.voice.pitchEnv - rateOf (raw s .decay))) ∧
      t.voice.osc2Env =
        (if raw s .osc2Decay = 0 then 0 else clamped (s.voice.osc2Env - rateOf (raw s .osc2Decay))) ∧
      t.voice.clickEnv =
        (if raw s .clickDecay = 0 then 0 else clamped (s.voice.clickEnv - rateOf (raw s .clickDecay))))

/-- 40_envelope.md R93: one frame that starts in Attack. -/
def Obligations.AttackFrame : Prop :=
  ∀ s : State, s.life = .ready → s.voice.envPhase = .attack →
    ∃ t, exec (.render 1) s = .next t ∧
      (t.voice.ampEnv, t.voice.envPhase) =
        if raw s .attack = 0 then (1, .decay)
        else if 1 ≤ s.voice.ampEnv + rateOf (raw s .attack) then (1, .decay)
        else (clamped (s.voice.ampEnv + rateOf (raw s .attack)), .attack)

/-- 40_envelope.md R94, R95, R96: one frame that starts in Decay or Release; both use RELEASE. -/
def Obligations.DecayAndReleaseFrame : Prop :=
  ∀ s : State, s.life = .ready → (s.voice.envPhase = .decay ∨ s.voice.envPhase = .release) →
    ∃ t, exec (.render 1) s = .next t ∧
      (t.voice.ampEnv, t.voice.envPhase) =
        if raw s .release = 0 then (0, .idle)
        else if s.voice.ampEnv - rateOf (raw s .release) ≤ 0 then (0, .idle)
        else (clamped (s.voice.ampEnv - rateOf (raw s .release)), s.voice.envPhase)

/-- 40_envelope.md R97 and 70_reset_and_hazards.md R289: frames in Idle stay in Idle, leave the envelopes, and emit
samples of value 0. -/
def Obligations.IdleFramesAreSilent : Prop :=
  ∀ (s : State) (n : Half), s.life = .ready → s.voice.envPhase = .idle → s.voice.ampEnv = 0 →
    ∃ t fs, exec (.render n) s = .next t ∧ t.voice.envPhase = .idle ∧ t.voice.ampEnv = 0 ∧
      t.voice.pitchEnv = s.voice.pitchEnv ∧ t.voice.osc2Env = s.voice.osc2Env ∧
      t.voice.clickEnv = s.voice.clickEnv ∧ t.out = s.out ++ fs ∧ fs.length = n.toNat ∧
      ∀ f ∈ fs, ∀ noise : Nat → ℝ, f.left.value noise = 0 ∧ f.right.value noise = 0

/-- 40_envelope.md R100: the envelopes' shapes with constant positive times, counted in frames from the trigger (and,
for the Decay ramp, from the frame that entered Decay at 1): the Attack ramp is `k / (48·ATTACK)` and reaches exactly 1,
in Decay, at frame `48·ATTACK`; the Decay ramp is `1 − j / (48·RELEASE)` and reaches exactly 0, in Idle, at frame
`48·RELEASE`; a tracker at 1 reads `max(0, 1 − k / (48·md))` after k frames, while the machine is not Idle. For every
number of frames: above 65535 they are the RENDERs of 30_encoding.md R69. -/
def Obligations.EnvelopeShapes : Prop :=
  ∀ (s : State) (k : Nat), s.life = .ready → ∃ t, runCommands (renderCommands k) s = .next t ∧
    (s.voice.envPhase = .attack → s.voice.ampEnv = 0 → 0 < raw s .attack → (k : ℚ) ≤ 48 * raw s .attack →
      t.voice.ampEnv = k / (48 * raw s .attack) ∧
      t.voice.envPhase = if (k : ℚ) < 48 * raw s .attack then .attack else .decay) ∧
    (s.voice.envPhase = .decay → s.voice.ampEnv = 1 → 0 < raw s .release → (k : ℚ) ≤ 48 * raw s .release →
      t.voice.ampEnv = 1 - k / (48 * raw s .release) ∧
      t.voice.envPhase = if (k : ℚ) < 48 * raw s .release then .decay else .idle) ∧
    (t.voice.envPhase ≠ .idle →
      (s.voice.pitchEnv = 1 → 0 < raw s .decay →
        t.voice.pitchEnv = max 0 (1 - k / (48 * raw s .decay))) ∧
      (s.voice.osc2Env = 1 → 0 < raw s .osc2Decay →
        t.voice.osc2Env = max 0 (1 - k / (48 * raw s .osc2Decay))) ∧
      (s.voice.clickEnv = 1 → 0 < raw s .clickDecay →
        t.voice.clickEnv = max 0 (1 - k / (48 * raw s .clickDecay))))

/-- 40_envelope.md R101: after a matching NOTEOFF in Attack or Decay the amplitude falls by `1 / (48·RELEASE)` a frame
from its value until it is 0 and the phase is Idle, for every number of frames (above 65535 they are the RENDERs of
30_encoding.md R69). -/
def Obligations.ReleaseFallsToIdle : Prop :=
  ∀ (s : State) (note : Byte) (j : Nat), s.life = .ready → (note = s.voice.currentNote ∨ note = 255) →
    (s.voice.envPhase = .attack ∨ s.voice.envPhase = .decay) → 0 ≤ s.voice.ampEnv → s.voice.ampEnv ≤ 1 →
    0 < raw s .release →
    ∃ t u, exec (.noteoff note) s = .next t ∧ runCommands (renderCommands j) t = .next u ∧
      u.voice.ampEnv = max 0 (s.voice.ampEnv - j / (48 * raw s .release)) ∧
      u.voice.envPhase =
        if j = 0 ∨ (j : ℚ) / (48 * raw s .release) < s.voice.ampEnv then .release else .idle

/-- 70_reset_and_hazards.md R288: with ATTACK < 0 the machine stays in Attack at 0, with RELEASE < 0 in Decay or
Release at 1, however many frames run. -/
def Obligations.NegativeTimesHoldTheEnvelope : Prop :=
  ∀ (s : State) (n : Half), s.life = .ready →
    (s.voice.envPhase = .attack → s.voice.ampEnv = 0 → raw s .attack < 0 →
      ∃ t, exec (.render n) s = .next t ∧ t.voice.envPhase = .attack ∧ t.voice.ampEnv = 0) ∧
    ((s.voice.envPhase = .decay ∨ s.voice.envPhase = .release) → s.voice.ampEnv = 1 → raw s .release < 0 →
      ∃ t, exec (.render n) s = .next t ∧ t.voice.envPhase = s.voice.envPhase ∧ t.voice.ampEnv = 1)

/-! ## The oscillator bank -/

/-- The parameter registers: each one's number and class in the table of 10_state.md R26, the conversion of each class
(R27), and the conversions of a raw value, in range or not (00_scope.md R12). -/
def Obligations.ConversionsOfRawValues : Prop :=
  (∀ p : Param, p.index = registerNumber p ∧ p.cls = registerClass p) ∧
  ∀ (P : ParamSet) (p : Param),
    pct Arith.exact P p = (rawInt P p : ℚ) / 100 ∧ ratio Arith.exact P p = (rawInt P p : ℚ) / 10 ∧
    hz Arith.exact P p = (rawInt P p : ℚ) ∧ ms Arith.exact P p = (rawInt P p : ℚ) ∧
    (isOn P p = true ↔ 0 < rawInt P p) ∧ choice P p = rawInt P p ∧
    converted Arith.exact P p =
      match registerClass p with
      | .hz | .ms => .number (rawInt P p : ℚ)
      | .percent => .number ((rawInt P p : ℚ) / 100)
      | .ratio => .number ((rawInt P p : ℚ) / 10)
      | .onOff => .truth (decide (0 < rawInt P p))
      | .choice => .integer (rawInt P p)

/-- 41_oscillators.md R111, R112, R114, R120: the three accumulators after one frame, evaluated at the frame-start
phases with the trackers as stage 1 left them. -/
def Obligations.PhasesAdvance : Prop :=
  ∀ (s : State) (noise : Nat → ℝ), s.life = .ready → ∃ t, exec (.render 1) s = .next t ∧
    t.voice.phaseBody.value noise =
      Int.fract (s.voice.phaseBody.value noise
        + ((sweepOf s t.voice.pitchEnv : ℝ) + fmOf s t.voice.osc2Env) / 48000) ∧
    t.voice.phaseOsc2 =
      Int.fract (s.voice.phaseOsc2
        + sweepOf s t.voice.pitchEnv * (raw s .osc2Ratio / 10) * (raw s .fmRatio / 10) / 48000) ∧
    t.voice.phaseClick = Int.fract (s.voice.phaseClick + raw s .clickFreq / 48000)

/-- 41_oscillators.md R115: the waveform function, and which waveform draws. -/
def Obligations.WaveformFunction : Prop :=
  ∀ (noise : Nat → ℝ) (k : Int) (p : ℚ) (n : Nat),
    (waveform Arith.exact drawSignal k p n).1.value noise = wave noise k p n ∧
    (waveform Arith.exact drawSignal k p n).2 = if k = 4 then n + 1 else n

/-- Every waveform stays in [−1, 1] over a phase in [0, 1), the noise included when every draw does (41_oscillators.md
R115, R121). -/
def Obligations.WaveformsStayInRange : Prop :=
  ∀ (noise : Nat → ℝ) (k : Int) (p : ℚ) (n : Nat), LegalNoise noise → 0 ≤ p → p < 1 →
    -1 ≤ (waveform Arith.exact drawSignal k p n).1.value noise ∧
    (waveform Arith.exact drawSignal k p n).1.value noise ≤ 1

/-- 41_oscillators.md R117, R118, R119, R121: the click's history and the draws of one frame, the secondary's draw
before the click's, at most two. -/
def Obligations.ClickHistoryAndDraws : Prop :=
  ∀ (s : State) (noise : Nat → ℝ), s.life = .ready → ∃ t, exec (.render 1) s = .next t ∧
    (clickOn t.voice → t.voice.lastClick.value noise = blendOf noise s ∧ t.draws = s.draws + osc2Draws s + 1) ∧
    (¬ clickOn t.voice → t.voice.lastClick = s.voice.lastClick ∧ t.draws = s.draws + osc2Draws s) ∧
    t.draws ≤ s.draws + 2

/-! ## Mixer, drive, filter, output -/

/-- 42_mixer_drive.md R140, R141: the mixer's sum, the driven signal, and the exact bypass. -/
def Obligations.MixerAndDrive : Prop :=
  ∀ (noise : Nat → ℝ) (s : State) (b o c x : Signal),
    (mixSignals Arith.exact b o c).value noise = b.value noise + o.value noise + c.value noise ∧
    (driveStage Arith.exact s.params x).value noise = mixedOf s (x.value noise) ∧
    (raw s .drive ≤ 0 → driveStage Arith.exact s.params x = x)

/-- 42_mixer_drive.md R142: the bound of the driven signal, and that there is none without drive. -/
def Obligations.DrivenSignalIsBounded : Prop :=
  (∀ (noise : Nat → ℝ) (s : State) (x : Signal), 0 < raw s .drive →
    |(driveStage Arith.exact s.params x).value noise| < 1 / (1 + 1.5 * ((raw s .drive : ℝ) / 100)) ∧
    1 / (1 + 1.5 * ((raw s .drive : ℝ) / 100)) ≤ 1) ∧
  (∀ (noise : Nat → ℝ) (s : State) (bound : ℝ), raw s .drive ≤ 0 →
    ∃ x, bound < (driveStage Arith.exact s.params x).value noise)

/-- 43_filter.md R151, R152, R153: the 12 dB mode, stages 2 and 3 untouched; and that a frame in this mode writes the
stages so (R157), from the driven signal of the frame. -/
def Obligations.TwelveDecibelFilter : Prop :=
  (∀ (noise : Nat → ℝ) (P : ParamSet) (x : Signal) (s : FilterStages Signal),
    0 < rawInt P .filterEn → rawInt P .filterMode ≤ 0 →
    ∃ y t, filterStep Arith.exact P x s = (y, t) ∧
      t.s0.value noise = input12 P (x.value noise) (s.s1.value noise) + 0.3 * s.s0.value noise ∧
      t.s1.value noise = t.s0.value noise + 0.3 * s.s1.value noise ∧ t.s2 = s.s2 ∧ t.s3 = s.s3 ∧ y = t.s1) ∧
  (∀ (noise : Nat → ℝ) (s : State), s.life = .ready → 0 < raw s .filterEn → raw s .filterMode ≤ 0 →
    ∃ t, exec (.render 1) s = .next t ∧
      t.voice.filterStage.s0.value noise =
        input12 s.params (mixedOf s (mixOf noise s t.voice)) (s.voice.filterStage.s1.value noise)
          + 0.3 * s.voice.filterStage.s0.value noise ∧
      t.voice.filterStage.s1.value noise =
        t.voice.filterStage.s0.value noise + 0.3 * s.voice.filterStage.s1.value noise ∧
      t.voice.filterStage.s2 = s.voice.filterStage.s2 ∧ t.voice.filterStage.s3 = s.voice.filterStage.s3)

/-- 43_filter.md R151, R154, R155: the 24 dB mode; and that a frame in this mode writes the stages so (R157), from the
driven signal of the frame. -/
def Obligations.TwentyFourDecibelFilter : Prop :=
  (∀ (noise : Nat → ℝ) (P : ParamSet) (x : Signal) (s : FilterStages Signal),
    0 < rawInt P .filterEn → 0 < rawInt P .filterMode →
    ∃ y t, filterStep Arith.exact P x s = (y, t) ∧
      t.s0.value noise = input24 P (x.value noise) (s.s3.value noise) + 0.3 * s.s0.value noise ∧
      t.s1.value noise = t.s0.value noise + 0.3 * s.s1.value noise ∧
      t.s2.value noise = t.s1.value noise + 0.3 * s.s2.value noise ∧
      t.s3.value noise = t.s2.value noise + 0.3 * s.s3.value noise ∧ y = t.s3) ∧
  (∀ (noise : Nat → ℝ) (s : State), s.life = .ready → 0 < raw s .filterEn → 0 < raw s .filterMode →
    ∃ t, exec (.render 1) s = .next t ∧
      t.voice.filterStage.s0.value noise =
        input24 s.params (mixedOf s (mixOf noise s t.voice)) (s.voice.filterStage.s3.value noise)
          + 0.3 * s.voice.filterStage.s0.value noise ∧
      t.voice.filterStage.s1.value noise =
        t.voice.filterStage.s0.value noise + 0.3 * s.voice.filterStage.s1.value noise ∧
      t.voice.filterStage.s2.value noise =
        t.voice.filterStage.s1.value noise + 0.3 * s.voice.filterStage.s2.value noise ∧
      t.voice.filterStage.s3.value noise =
        t.voice.filterStage.s2.value noise + 0.3 * s.voice.filterStage.s3.value noise)

/-- 43_filter.md R156: while FILTER_EN is off the filter passes its input on and keeps its state, frame after frame. -/
def Obligations.FilterBypassIsExact : Prop :=
  (∀ (P : ParamSet) (x : Signal) (s : FilterStages Signal), rawInt P .filterEn ≤ 0 →
    filterStep Arith.exact P x s = (x, s)) ∧
  (∀ (s : State) (n : Half), s.life = .ready → raw s .filterEn ≤ 0 →
    ∃ t, exec (.render n) s = .next t ∧ t.voice.filterStage = s.voice.filterStage)

/-- 43_filter.md R160: the DC gain of the cascade. With no resonance a constant input whose stages stand at
`u·(10/7)^k` leaves them there, and the output is the DC gain times the input. -/
def Obligations.DcGainOfTheCascade : Prop :=
  ∀ (noise : Nat → ℝ) (P : ParamSet) (x : Signal) (s : FilterStages Signal),
    0 < rawInt P .filterEn → rawInt P .resonance = 0 →
    (rawInt P .filterMode ≤ 0 →
      s.s0.value noise = x.value noise * 0.35013 * coefficient P ^ 2 * (10 / 7) →
      s.s1.value noise = x.value noise * 0.35013 * coefficient P ^ 2 * (10 / 7) ^ 2 →
      (filterStep Arith.exact P x s).1.value noise = x.value noise * 0.35013 * coefficient P ^ 2 * (10 / 7) ^ 2 ∧
      (filterStep Arith.exact P x s).2.s0.value noise = s.s0.value noise ∧
      (filterStep Arith.exact P x s).2.s1.value noise = s.s1.value noise) ∧
    (0 < rawInt P .filterMode →
      s.s0.value noise = x.value noise * 0.35013 * coefficient P ^ 4 * (10 / 7) →
      s.s1.value noise = x.value noise * 0.35013 * coefficient P ^ 4 * (10 / 7) ^ 2 →
      s.s2.value noise = x.value noise * 0.35013 * coefficient P ^ 4 * (10 / 7) ^ 3 →
      s.s3.value noise = x.value noise * 0.35013 * coefficient P ^ 4 * (10 / 7) ^ 4 →
      (filterStep Arith.exact P x s).1.value noise = x.value noise * 0.35013 * coefficient P ^ 4 * (10 / 7) ^ 4 ∧
      (filterStep Arith.exact P x s).2.s0.value noise = s.s0.value noise ∧
      (filterStep Arith.exact P x s).2.s1.value noise = s.s1.value noise ∧
      (filterStep Arith.exact P x s).2.s2.value noise = s.s2.value noise ∧
      (filterStep Arith.exact P x s).2.s3.value noise = s.s3.value noise)

/-- 41_oscillators.md R113, R116, R118, R119; 42_mixer_drive.md R140, R141; 43_filter.md R150 to R155;
44_output_render.md R165, R166, R168: the one sample pair that a frame appends, by the spec's formulas over the
reals. -/
def Obligations.SampleOfOneFrame : Prop :=
  ∀ (s : State) (noise : Nat → ℝ), s.life = .ready → ∃ t f, exec (.render 1) s = .next t ∧ t.out = s.out ++ [f] ∧
    f.right = f.left ∧
    f.left.value noise =
      limited
        (filteredOf s.params (mixedOf s (mixOf noise s t.voice)) (s.voice.filterStage.s0.value noise)
            (s.voice.filterStage.s1.value noise) (s.voice.filterStage.s2.value noise)
            (s.voice.filterStage.s3.value noise)
          * 1.3 * ((t.voice.ampEnv : ℝ) * s.voice.currentVelocity))

/-! ## RENDER -/

/-- 44_output_render.md R169: RENDER runs its frames in strict sequence; 0 frames change nothing, and two
RENDERs with nothing between them produce the frames and the end state of one. -/
def Obligations.RenderRunsFramesInSequence : Prop :=
  ∀ (n : Half) (s : State), s.life = .ready →
    encode (.render n) = 0x30#8 ++ 0#8 ++ n ∧
    exec (.render n) s =
      .next (s.withEngine ((frame Arith.exact drawSignal s.params)^[n.toNat] s.engine)) ∧
    exec (.render 0) s = .next s ∧
    (∀ m : Half, n.toNat + m.toNat < 65536 →
      ∃ t, exec (.render n) s = .next t ∧ exec (.render m) t = exec (.render (n + m)) s)

/-- A RENDER of more than 65535 frames, split as 30_encoding.md R69 says, runs that many frames in sequence. -/
def Obligations.SplitRenderRunsTheSameFrames : Prop :=
  ∀ (n : Nat) (s : State), s.life = .ready →
    runCommands (renderCommands n) s =
      .next (s.withEngine ((frame Arith.exact drawSignal s.params)^[n] s.engine))

/-- 44_output_render.md R166, R167: a RENDER of `n` frames appends `n` sample pairs, left and right the same, each in
[−1, 1] for every parameter configuration, every Voice State and every draw. -/
def Obligations.EverySampleIsBounded : Prop :=
  ∀ (n : Half) (s : State), s.life = .ready →
    ∃ t fs, exec (.render n) s = .next t ∧ t.out = s.out ++ fs ∧ fs.length = n.toNat ∧
      ∀ f ∈ fs, f.left = f.right ∧ ∀ noise : Nat → ℝ, -1 ≤ f.left.value noise ∧ f.left.value noise ≤ 1

/-- The frame of RENDER: parameters, preset index, lifecycle, fault, CMD and RSP stay, and of the Voice State the note
and the velocity; from one frame to the next OUT only grows (44_output_render.md R168, R169). -/
def Obligations.RenderLeavesTheRest : Prop :=
  ∀ (n : Half) (s : State), s.life = .ready →
    ∃ t, exec (.render n) s = .next t ∧ t.params = s.params ∧ t.presetIndex = s.presetIndex ∧ t.life = s.life ∧
      t.fault = s.fault ∧ t.faultWord = s.faultWord ∧ t.cmd = s.cmd ∧ t.rsp = s.rsp ∧
      t.voice.currentNote = s.voice.currentNote ∧ t.voice.currentVelocity = s.voice.currentVelocity ∧
      s.out <+: t.out ∧ s.draws ≤ t.draws

/-- 44_output_render.md R171: the frames and the end state are determined by the state at the start and the draws the
RENDER takes: two noise streams that agree on those draws and on the state give the same values. -/
def Obligations.RenderIsDeterminedByItsDraws : Prop :=
  ∀ (n : Half) (s : State) (noise noise' : Nat → ℝ), s.life = .ready →
    realEngine noise s.engine = realEngine noise' s.engine →
    ∃ t, exec (.render n) s = .next t ∧
      ((∀ k, s.draws ≤ k → k < t.draws → noise k = noise' k) →
        realEngine noise t.engine = realEngine noise' t.engine)

/-- The machine's data is the exact-real semantics of the pipeline (00_scope.md R7, 44_output_render.md R168, R169):
for every noise stream, the real numbers that a RENDER's end state stands for are those that its frames, run on real
numbers, give. -/
def Obligations.RenderRefinesExactReals : Prop :=
  ∀ (n : Half) (s : State) (noise : Nat → ℝ), s.life = .ready →
    ∃ t, exec (.render n) s = .next t ∧
      realEngine noise t.engine = frames Arith.reals noise s.params n.toNat (realEngine noise s.engine)

/-! ## OUT as words and bytes -/

/-- 20_memory.md R42: the bytes of a serialised word, least significant first, give the word back. -/
def Obligations.WordsAreLittleEndian : Prop :=
  ∀ (w : Word) (rest : List Byte),
    (∀ i : Nat, i < 4 → (wordBytes w)[i]? = some (BitVec.ofNat 8 (w.toNat / 256 ^ i))) ∧
    wordOfBytes (wordBytes w ++ rest) = some (w, rest)

/-- 44_output_render.md R170: the word of a sample is a finite binary32, none is nearer, and of two as near the even
one is taken. -/
def Obligations.SampleWordIsNearest : Prop :=
  ∀ x : ℝ, -1 ≤ x → x ≤ 1 →
    binary32Finite (binary32 x) = true ∧ -1 ≤ (binary32Value (binary32 x) : ℝ) ∧ (binary32Value (binary32 x) : ℝ) ≤ 1 ∧
    ∀ w : Word, binary32Finite w = true →
      |x - binary32Value (binary32 x)| ≤ |x - binary32Value w| ∧
      (|x - binary32Value (binary32 x)| = |x - binary32Value w| →
        (binary32Value (binary32 x) : ℝ) = binary32Value w ∨ (binary32 x).getLsbD 0 = false)

/-- 20_memory.md R43, R44: a RENDER into a buffer is refused when its base is no multiple of 4, and else lays frame `k`
out in the 8 bytes at `base + 8·k`. -/
def Obligations.BufferLayout : Prop :=
  ∀ (noise : Nat → ℝ) (base : Nat) (n : Half) (s : State), s.life = .ready →
    (base % 4 ≠ 0 → renderToBuffer noise base n s = .refused (.misalignedBuffer base)) ∧
    (base % 4 = 0 → ∃ t cells, exec (.render n) s = .next t ∧ renderToBuffer noise base n s = .next (t, cells) ∧
      cells.length = 8 * n.toNat ∧
      ∀ k j : Nat, k < n.toNat → j < 8 → ∃ f b, t.out[s.out.length + k]? = some f ∧
        (wordBytes (binary32 (f.left.value noise)) ++ wordBytes (binary32 (f.right.value noise)))[j]? = some b ∧
        cells[8 * k + j]? = some (base + 8 * k + j, b))

/-! ## Invariants -/

/-- The invariant holds after power-on (10_state.md R20, R22, R23, R31, R32). -/
def Obligations.InvariantAtReset : Prop := Inv State.reset

/-- Every step keeps the invariant (10_state.md R22, R23, R31, R32; 44_output_render.md R166, R167). -/
def Obligations.StepKeepsTheInvariant : Prop := ∀ s t : State, Inv s → step s = .next t → Inv t
end

