-- ==== Sys2Proof/Laws/Signal.lean ====
section
/-! SUPPORT. What each operation on signals does to their values: the machine's exact arithmetic is real arithmetic. -/

namespace Sys2Proof.Machine

variable (noise : Nat → ℝ)

/-! ## Rational functions -/

@[simp] theorem cast_fracRat (q : ℚ) : ((fracRat q : ℚ) : ℝ) = Int.fract (q : ℝ) := by
  have h : fracRat q = Int.fract q := by rfl
  rw [h, Rat.cast_fract]

@[simp] theorem cast_clamp01Rat (q : ℚ) : ((clamp01Rat q : ℚ) : ℝ) = min 1 (max 0 (q : ℝ)) := by
  simp [clamp01Rat]

@[simp] theorem cast_clipRat (q : ℚ) : ((clipRat q : ℚ) : ℝ) = min 1 (max (-1) (q : ℝ)) := by
  simp [clipRat]

theorem fracRat_nonneg (q : ℚ) : 0 ≤ fracRat q := by
  have h : (0 : ℝ) ≤ (fracRat q : ℝ) := by rw [cast_fracRat]; exact Int.fract_nonneg _
  exact_mod_cast h

theorem fracRat_lt_one (q : ℚ) : fracRat q < 1 := by
  have h : (fracRat q : ℝ) < 1 := by rw [cast_fracRat]; exact Int.fract_lt_one _
  exact_mod_cast h

theorem clamp01Rat_nonneg (q : ℚ) : 0 ≤ clamp01Rat q := by simp [clamp01Rat]

theorem clamp01Rat_le_one (q : ℚ) : clamp01Rat q ≤ 1 := by simp [clamp01Rat]

/-! ## Sums and rational factors -/

@[simp] theorem value_const (q : ℚ) : (Signal.const q).value noise = q := by rw [Signal.value]

@[simp] theorem value_term (c : ℚ) (a : Atom) (x : Signal) :
    (Signal.term c a x).value noise = c * a.value noise + x.value noise := by rw [Signal.value]

@[simp] theorem value_draw (n : Nat) : (Atom.draw n).value noise = noise n := by rw [Atom.value]

@[simp] theorem value_ofAtom (a : Atom) : (Signal.ofAtom a).value noise = a.value noise := by
  simp [Signal.ofAtom]

@[simp] theorem value_addConst (q : ℚ) : ∀ x : Signal, (x.addConst q).value noise = x.value noise + q
  | .const q' => by simp [Signal.addConst]
  | .term c a rest => by simp [Signal.addConst, value_addConst q rest, add_assoc]

@[simp] theorem value_addTerm (c : ℚ) (a : Atom) :
    ∀ x : Signal, (x.addTerm c a).value noise = x.value noise + c * a.value noise
  | .const q => by
    simp only [Signal.addTerm]
    split <;> rename_i h
    · simp [h]
    · simp [add_comm]
  | .term c' a' rest => by
    simp only [Signal.addTerm]
    split
    · rename_i ha
      subst ha
      split <;> rename_i hc
      · have h0 : (c' : ℝ) = -c := by
          have := congrArg (fun q : ℚ => (q : ℝ)) hc
          push_cast at this
          linarith
        rw [value_term, h0]
        ring
      · simp only [value_term]
        push_cast
        ring
    · simp only [value_term, value_addTerm c a rest]
      ring

@[simp] theorem value_add (x : Signal) : ∀ y : Signal, (x.add y).value noise = x.value noise + y.value noise
  | .const q => by simp [Signal.add]
  | .term c a rest => by
    simp only [Signal.add, value_addTerm, value_add x rest, value_term]
    ring

theorem value_scaleTerms (c : ℚ) : ∀ x : Signal, (x.scaleTerms c).value noise = x.value noise * c
  | .const q => by simp [Signal.scaleTerms]
  | .term c' a rest => by
    simp only [Signal.scaleTerms, value_term, value_scaleTerms c rest]
    push_cast
    ring

@[simp] theorem value_scale (x : Signal) (c : ℚ) : (x.scale c).value noise = x.value noise * c := by
  unfold Signal.scale
  split <;> rename_i h
  · simp [h]
  · exact value_scaleTerms noise c x

@[simp] theorem value_sub (x y : Signal) : (x.sub y).value noise = x.value noise - y.value noise := by
  simp [Signal.sub, sub_eq_add_neg]

/-! ## Whole turns -/

/-- `frac` of a rational differs from it by an integer. -/
theorem exists_int_fracRat (q : ℚ) : ∃ k : ℤ, ((fracRat q : ℚ) : ℝ) = (q : ℝ) + k :=
  ⟨-⌊(q : ℝ)⌋, by rw [cast_fracRat, Int.fract]; push_cast; ring⟩

theorem exists_int_fracConst : ∀ x : Signal, ∃ k : ℤ, x.fracConst.value noise = x.value noise + k
  | .const q => by simpa [Signal.fracConst] using exists_int_fracRat q
  | .term c a rest => by
    obtain ⟨k, hk⟩ := exists_int_fracConst rest
    exact ⟨k, by simp [Signal.fracConst, hk, add_assoc]⟩

theorem exists_int_unwrap : ∀ x : Signal, ∃ k : ℤ, x.unwrap.value noise = x.value noise + k
  | .const q => ⟨0, by simp [Signal.unwrap]⟩
  | .term c a rest => by
    obtain ⟨k, hk⟩ := exists_int_unwrap rest
    have other : ∃ k : ℤ, (rest.unwrap.addTerm c a).value noise = (Signal.term c a rest).value noise + k :=
      ⟨k, by simp only [value_addTerm, hk, value_term]; ring⟩
    cases a with
    | frac y =>
      simp only [Signal.unwrap]
      split <;> rename_i hc
      · refine ⟨k + ⌊y.value noise⌋, ?_⟩
        subst hc
        simp only [value_add, hk, value_term, Atom.value, Int.fract]
        push_cast
        ring
      · exact other
    | draw n => simpa only [Signal.unwrap] using other
    | sine y => simpa only [Signal.unwrap] using other
    | tanh y => simpa only [Signal.unwrap] using other
    | clip y => simpa only [Signal.unwrap] using other

theorem exists_int_modOne (x : Signal) : ∃ k : ℤ, x.modOne.value noise = x.value noise + k := by
  obtain ⟨j, hj⟩ := exists_int_unwrap noise x
  obtain ⟨k, hk⟩ := exists_int_fracConst noise x.unwrap
  exact ⟨j + k, by rw [Signal.modOne, hk, hj]; push_cast; ring⟩

theorem fract_modOne (x : Signal) : Int.fract (x.modOne.value noise) = Int.fract (x.value noise) := by
  obtain ⟨k, hk⟩ := exists_int_modOne noise x
  rw [hk, Int.fract_add_intCast]

theorem sin_turn_add_int (x : ℝ) (k : ℤ) :
    Real.sin (2 * Real.pi * (x + k)) = Real.sin (2 * Real.pi * x) := by
  rw [mul_add, mul_comm (2 * Real.pi) (k : ℝ), Real.sin_add_int_mul_two_pi]

theorem sin_modOne (x : Signal) :
    Real.sin (2 * Real.pi * x.modOne.value noise) = Real.sin (2 * Real.pi * x.value noise) := by
  obtain ⟨k, hk⟩ := exists_int_modOne noise x
  rw [hk, sin_turn_add_int]

/-- A constant that `modOne` leaves is already in [0, 1). -/
theorem const_of_fracConst {q : ℚ} : ∀ {x : Signal}, x.fracConst = .const q → fracRat q = q
  | .const q', h => by
    have hq : fracRat q' = q := by simpa [Signal.fracConst] using h
    have h0 : (fracRat q : ℝ) = (q : ℝ) := by
      rw [cast_fracRat, ← hq, cast_fracRat, Int.fract_fract]
    exact_mod_cast h0
  | .term _ _ _, h => by simp [Signal.fracConst] at h

/-! ## Functions of a phase, of the drive and of the output -/

@[simp] theorem value_frac (x : Signal) : x.frac.value noise = Int.fract (x.value noise) := by
  unfold Signal.frac
  split
  · rename_i q h
    have hq := const_of_fracConst (x := x.unwrap) h
    rw [value_const, ← hq, cast_fracRat, ← value_const noise q, ← h, fract_modOne]
  · rw [value_ofAtom, Atom.value, fract_modOne]

theorem value_sineRat (q : ℚ) : (Signal.sineRat q).value noise = Real.sin (2 * Real.pi * q) := by
  obtain ⟨k, hk⟩ := exists_int_fracRat q
  have hs : Real.sin (2 * Real.pi * q) = Real.sin (2 * Real.pi * (fracRat q : ℚ)) := by
    rw [hk, sin_turn_add_int]
  rw [hs]
  unfold Signal.sineRat
  have e6 : Real.sin (Real.pi / 6) = 1 / 2 := Real.sin_pi_div_six
  generalize fracRat q = p
  simp only []
  split_ifs with h h h h h h h h
  · subst h; simp
  · subst h
    rw [show 2 * Real.pi * (((1 / 12 : ℚ)) : ℝ) = Real.pi / 6 by push_cast; ring, e6]
    norm_num
  · subst h
    rw [show 2 * Real.pi * (((1 / 4 : ℚ)) : ℝ) = Real.pi / 2 by push_cast; ring, Real.sin_pi_div_two]
    norm_num
  · subst h
    rw [show 2 * Real.pi * (((5 / 12 : ℚ)) : ℝ) = Real.pi - Real.pi / 6 by push_cast; ring, Real.sin_pi_sub, e6]
    norm_num
  · subst h
    rw [show 2 * Real.pi * (((1 / 2 : ℚ)) : ℝ) = Real.pi by push_cast; ring, Real.sin_pi]
    norm_num
  · subst h
    rw [show 2 * Real.pi * (((7 / 12 : ℚ)) : ℝ) = Real.pi / 6 + Real.pi by push_cast; ring, Real.sin_add_pi, e6]
    norm_num
  · subst h
    rw [show 2 * Real.pi * (((3 / 4 : ℚ)) : ℝ) = Real.pi / 2 + Real.pi by push_cast; ring, Real.sin_add_pi,
      Real.sin_pi_div_two]
    norm_num
  · subst h
    rw [show 2 * Real.pi * (((11 / 12 : ℚ)) : ℝ) = -(Real.pi / 6) + 2 * Real.pi by push_cast; ring,
      Real.sin_add_two_pi, Real.sin_neg, e6]
    norm_num
  · rw [value_ofAtom, Atom.value, value_const]

@[simp] theorem value_sine (x : Signal) : x.sine.value noise = Real.sin (2 * Real.pi * x.value noise) := by
  unfold Signal.sine
  split
  · rename_i q h
    rw [value_sineRat, ← value_const noise q, ← h, sin_modOne]
  · rw [value_ofAtom, Atom.value, sin_modOne]

@[simp] theorem value_tanh (x : Signal) : x.tanh.value noise = Real.tanh (x.value noise) := by
  unfold Signal.tanh
  split <;> rename_i h
  · simp [h]
  · rw [value_ofAtom, Atom.value]

@[simp] theorem value_clip (x : Signal) : x.clip.value noise = min 1 (max (-1) (x.value noise)) := by
  unfold Signal.clip
  split
  · simp
  · rw [value_ofAtom, Atom.value]

theorem neg_one_le_value_clip (x : Signal) : -1 ≤ x.clip.value noise := by simp

theorem value_clip_le_one (x : Signal) : x.clip.value noise ≤ 1 := by simp

theorem value_frac_nonneg (x : Signal) : 0 ≤ x.frac.value noise := by
  rw [value_frac]; exact Int.fract_nonneg _

theorem value_frac_lt_one (x : Signal) : x.frac.value noise < 1 := by
  rw [value_frac]; exact Int.fract_lt_one _

end Sys2Proof.Machine
end

