-- ==== Sys2Proof/Laws/Arith.lean ====
section
/-! SUPPORT. The exact realisation is real arithmetic, operation by operation: the values of its results are the
results that `Arith.reals` gives on the values (00_scope.md R7). -/

namespace Sys2Proof.Machine

/-! ## Control values -/

theorem exact_real (q : ℚ) : ((Arith.exact.real q : ℚ) : ℝ) = Arith.reals.real q := rfl

theorem exact_add (a b : ℚ) : ((Arith.exact.add a b : ℚ) : ℝ) = Arith.reals.add a b := Rat.cast_add a b

theorem exact_sub (a b : ℚ) : ((Arith.exact.sub a b : ℚ) : ℝ) = Arith.reals.sub a b := Rat.cast_sub a b

theorem exact_mul (a b : ℚ) : ((Arith.exact.mul a b : ℚ) : ℝ) = Arith.reals.mul a b := Rat.cast_mul a b

theorem exact_div (a b : ℚ) : ((Arith.exact.div a b : ℚ) : ℝ) = Arith.reals.div a b := Rat.cast_div a b

theorem exact_abs (a : ℚ) : ((Arith.exact.abs a : ℚ) : ℝ) = Arith.reals.abs a := Rat.cast_abs a

theorem exact_frac (a : ℚ) : ((Arith.exact.frac a : ℚ) : ℝ) = Arith.reals.frac a := cast_fracRat a

theorem exact_clamp01 (a : ℚ) : ((Arith.exact.clamp01 a : ℚ) : ℝ) = Arith.reals.clamp01 a := cast_clamp01Rat a

theorem exact_less (a b : ℚ) : Arith.exact.less a b = Arith.reals.less a b := by
  simp [Arith.exact, Arith.reals]

theorem exact_atMost (a b : ℚ) : Arith.exact.atMost a b = Arith.reals.atMost a b := by
  simp [Arith.exact, Arith.reals]

theorem exact_same (a b : ℚ) : Arith.exact.same a b = Arith.reals.same a b := by
  simp [Arith.exact, Arith.reals]

/-! ## Signals -/

variable (noise : Nat → ℝ)

theorem exact_signal (a : ℚ) : (Arith.exact.signal a).value noise = Arith.reals.signal a := value_const noise a

theorem exact_plus (x y : Signal) :
    (Arith.exact.plus x y).value noise = Arith.reals.plus (x.value noise) (y.value noise) := value_add noise x y

theorem exact_minus (x y : Signal) :
    (Arith.exact.minus x y).value noise = Arith.reals.minus (x.value noise) (y.value noise) := value_sub noise x y

theorem exact_scale (x : Signal) (a : ℚ) :
    (Arith.exact.scale x a).value noise = Arith.reals.scale (x.value noise) a := value_scale noise x a

theorem exact_divide (x : Signal) (a : ℚ) :
    (Arith.exact.divide x a).value noise = Arith.reals.divide (x.value noise) a := by
  simp [Arith.exact, Arith.reals, div_eq_mul_inv]

theorem exact_sine (a : ℚ) : (Arith.exact.sine a).value noise = Arith.reals.sine a := by
  simp [Arith.exact, Arith.reals]

theorem exact_sineOf (x : Signal) : (Arith.exact.sineOf x).value noise = Arith.reals.sineOf (x.value noise) :=
  value_sine noise x

theorem exact_tanh (x : Signal) : (Arith.exact.tanh x).value noise = Arith.reals.tanh (x.value noise) :=
  value_tanh noise x

theorem exact_wrap (x : Signal) : (Arith.exact.wrap x).value noise = Arith.reals.wrap (x.value noise) :=
  value_frac noise x

theorem exact_clip (x : Signal) : (Arith.exact.clip x).value noise = Arith.reals.clip (x.value noise) :=
  value_clip noise x

/-- A draw has the value the noise stream gives it. -/
@[simp] theorem value_drawSignal (n : Nat) : (drawSignal n).value noise = noise n := by
  simp [drawSignal]

end Sys2Proof.Machine
end

