-- ==== Sys2Proof/Laws/Fields.lean ====
section
/-! SUPPORT. The fields of a word in format C, and a word from its fields (30_encoding.md R60, R61). -/

namespace Sys2Proof

theorem toNat_formatC (o a : Byte) (m : Half) :
    (formatC o a m).toNat = o.toNat * 2 ^ 24 + a.toNat * 2 ^ 16 + m.toNat := by
  have ho := o.isLt
  have ha := a.isLt
  have hm := m.isLt
  have h : (formatC o a m).toNat = ((o.toNat <<< 8 ||| a.toNat) <<< 16) ||| m.toNat := by
    simp only [formatC]
    exact (BitVec.toNat_append (o ++ a) m).trans (by rw [BitVec.toNat_append])
  rw [h, ← Nat.shiftLeft_add_eq_or_of_lt (by omega), ← Nat.shiftLeft_add_eq_or_of_lt (by omega)]
  simp only [Nat.shiftLeft_eq]
  omega

theorem toNat_lowImm (b : Byte) : (lowImm b).toNat = b.toNat := by
  have hb := b.isLt
  have h : (lowImm b).toNat = (0 <<< 8) ||| b.toNat := by
    simp only [lowImm]
    exact BitVec.toNat_append 0#8 b
  rw [h, ← Nat.shiftLeft_add_eq_or_of_lt (by omega)]
  omega

theorem toNat_opcField (w : Word) : (opcField w).toNat = w.toNat / 2 ^ 24 := by
  have hw := w.isLt
  simp only [opcField, BitVec.extractLsb'_toNat, Nat.shiftRight_eq_div_pow]
  omega

theorem toNat_aField (w : Word) : (aField w).toNat = w.toNat / 2 ^ 16 % 2 ^ 8 := by
  simp only [aField, BitVec.extractLsb'_toNat, Nat.shiftRight_eq_div_pow]

theorem toNat_immField (w : Word) : (immField w).toNat = w.toNat % 2 ^ 16 := by
  simp only [immField, BitVec.extractLsb'_toNat, Nat.shiftRight_eq_div_pow, Nat.pow_zero, Nat.div_one]

theorem toNat_immHighField (w : Word) : (immHighField w).toNat = w.toNat / 2 ^ 8 % 2 ^ 8 := by
  simp only [immHighField, BitVec.extractLsb'_toNat, Nat.shiftRight_eq_div_pow]

theorem toNat_immLowField (w : Word) : (immLowField w).toNat = w.toNat % 2 ^ 8 := by
  simp only [immLowField, BitVec.extractLsb'_toNat, Nat.shiftRight_eq_div_pow, Nat.pow_zero, Nat.div_one]

variable (o a : Byte) (m : Half)

theorem opcField_formatC : opcField (formatC o a m) = o := by
  have := a.isLt
  have := m.isLt
  refine BitVec.eq_of_toNat_eq ?_
  rw [toNat_opcField, toNat_formatC]
  omega

theorem aField_formatC : aField (formatC o a m) = a := by
  have := a.isLt
  have := m.isLt
  refine BitVec.eq_of_toNat_eq ?_
  rw [toNat_aField, toNat_formatC]
  omega

theorem immField_formatC : immField (formatC o a m) = m := by
  have := m.isLt
  refine BitVec.eq_of_toNat_eq ?_
  rw [toNat_immField, toNat_formatC]
  omega

theorem immHighField_formatC_lowImm (b : Byte) : immHighField (formatC o a (lowImm b)) = 0 := by
  have := b.isLt
  refine BitVec.eq_of_toNat_eq ?_
  rw [toNat_immHighField, toNat_formatC, toNat_lowImm]
  simp only [BitVec.ofNat_eq_ofNat, BitVec.toNat_ofNat]
  omega

theorem immLowField_formatC_lowImm (b : Byte) : immLowField (formatC o a (lowImm b)) = b := by
  have := b.isLt
  refine BitVec.eq_of_toNat_eq ?_
  rw [toNat_immLowField, toNat_formatC, toNat_lowImm]
  omega

/-- A word is made of its three fields. -/
theorem formatC_fields (w : Word) : formatC (opcField w) (aField w) (immField w) = w := by
  have := w.isLt
  refine BitVec.eq_of_toNat_eq ?_
  rw [toNat_formatC, toNat_opcField, toNat_aField, toNat_immField]
  omega

/-- `IMM` with its high byte zero is its low byte. -/
theorem lowImm_immLowField {w : Word} (h : immHighField w = 0) : lowImm (immLowField w) = immField w := by
  have h' := congrArg BitVec.toNat h
  rw [toNat_immHighField] at h'
  simp only [BitVec.ofNat_eq_ofNat, BitVec.toNat_ofNat] at h'
  refine BitVec.eq_of_toNat_eq ?_
  rw [toNat_lowImm, toNat_immLowField, toNat_immField]
  omega

/-- A command that needs its reserved fields zero is decoded exactly when they are. -/
theorem requireZero_eq_ok {z : Bool} {i j : Instr} : requireZero z i = .ok j ↔ z = true ∧ i = j := by
  cases z <;> simp [requireZero]

end Sys2Proof
end

