-- ==== Sys2Proof/Laws/State.lean ====
section
/-! SUPPORT. Each update of the block, field by field: what it writes and what it leaves; the machine as its block. -/

namespace Sys2Proof.Machine

variable {E S : Type} (A : Arith E S) (s : Block E S)

/-! ## `respond` -/

@[simp] theorem respond_voice (w : Word) : (respond w s).voice = s.voice := rfl
@[simp] theorem respond_params (w : Word) : (respond w s).params = s.params := rfl
@[simp] theorem respond_presetIndex (w : Word) : (respond w s).presetIndex = s.presetIndex := rfl
@[simp] theorem respond_life (w : Word) : (respond w s).life = s.life := rfl
@[simp] theorem respond_fault (w : Word) : (respond w s).fault = s.fault := rfl
@[simp] theorem respond_faultWord (w : Word) : (respond w s).faultWord = s.faultWord := rfl
@[simp] theorem respond_cmd (w : Word) : (respond w s).cmd = s.cmd := rfl
@[simp] theorem respond_rsp (w : Word) : (respond w s).rsp = s.rsp ++ [w] := rfl
@[simp] theorem respond_out (w : Word) : (respond w s).out = s.out := rfl
@[simp] theorem respond_draws (w : Word) : (respond w s).draws = s.draws := rfl

/-! ## `offerCommand` -/

@[simp] theorem offerCommand_voice (w : Word) : (offerCommand w s).voice = s.voice := rfl
@[simp] theorem offerCommand_params (w : Word) : (offerCommand w s).params = s.params := rfl
@[simp] theorem offerCommand_presetIndex (w : Word) : (offerCommand w s).presetIndex = s.presetIndex := rfl
@[simp] theorem offerCommand_life (w : Word) : (offerCommand w s).life = s.life := rfl
@[simp] theorem offerCommand_fault (w : Word) : (offerCommand w s).fault = s.fault := rfl
@[simp] theorem offerCommand_faultWord (w : Word) : (offerCommand w s).faultWord = s.faultWord := rfl
@[simp] theorem offerCommand_cmd (w : Word) : (offerCommand w s).cmd = s.cmd ++ [w] := rfl
@[simp] theorem offerCommand_rsp (w : Word) : (offerCommand w s).rsp = s.rsp := rfl
@[simp] theorem offerCommand_out (w : Word) : (offerCommand w s).out = s.out := rfl
@[simp] theorem offerCommand_draws (w : Word) : (offerCommand w s).draws = s.draws := rfl

/-! ## `raiseFault` -/

@[simp] theorem raiseFault_voice (c : FaultCode) (w : Word) : (raiseFault c w s).voice = s.voice := rfl
@[simp] theorem raiseFault_params (c : FaultCode) (w : Word) : (raiseFault c w s).params = s.params := rfl
@[simp] theorem raiseFault_presetIndex (c : FaultCode) (w : Word) : (raiseFault c w s).presetIndex = s.presetIndex := rfl
@[simp] theorem raiseFault_life (c : FaultCode) (w : Word) : (raiseFault c w s).life = s.life := rfl
@[simp] theorem raiseFault_fault (c : FaultCode) (w : Word) : (raiseFault c w s).fault = some c := rfl
@[simp] theorem raiseFault_faultWord (c : FaultCode) (w : Word) : (raiseFault c w s).faultWord = w := rfl
@[simp] theorem raiseFault_cmd (c : FaultCode) (w : Word) : (raiseFault c w s).cmd = s.cmd := rfl
@[simp] theorem raiseFault_rsp (c : FaultCode) (w : Word) : (raiseFault c w s).rsp = s.rsp := rfl
@[simp] theorem raiseFault_out (c : FaultCode) (w : Word) : (raiseFault c w s).out = s.out := rfl
@[simp] theorem raiseFault_draws (c : FaultCode) (w : Word) : (raiseFault c w s).draws = s.draws := rfl

/-! ## `resetVoice` -/

@[simp] theorem resetVoice_voice : (resetVoice A s).voice = VoiceState.zero A := rfl
@[simp] theorem resetVoice_params : (resetVoice A s).params = s.params := rfl
@[simp] theorem resetVoice_presetIndex : (resetVoice A s).presetIndex = s.presetIndex := rfl
@[simp] theorem resetVoice_life : (resetVoice A s).life = s.life := rfl
@[simp] theorem resetVoice_fault : (resetVoice A s).fault = s.fault := rfl
@[simp] theorem resetVoice_faultWord : (resetVoice A s).faultWord = s.faultWord := rfl
@[simp] theorem resetVoice_cmd : (resetVoice A s).cmd = s.cmd := rfl
@[simp] theorem resetVoice_rsp : (resetVoice A s).rsp = s.rsp := rfl
@[simp] theorem resetVoice_out : (resetVoice A s).out = s.out := rfl
@[simp] theorem resetVoice_draws : (resetVoice A s).draws = s.draws := rfl

/-! ## `construct` -/

@[simp] theorem construct_voice : (construct A s).voice = VoiceState.zero A := rfl
@[simp] theorem construct_params : (construct A s).params = Vector.ofFn Config.defaultParams := rfl
@[simp] theorem construct_presetIndex : (construct A s).presetIndex = 0 := rfl
@[simp] theorem construct_life : (construct A s).life = s.life := rfl
@[simp] theorem construct_fault : (construct A s).fault = s.fault := rfl
@[simp] theorem construct_faultWord : (construct A s).faultWord = s.faultWord := rfl
@[simp] theorem construct_cmd : (construct A s).cmd = s.cmd := rfl
@[simp] theorem construct_rsp : (construct A s).rsp = s.rsp := rfl
@[simp] theorem construct_out : (construct A s).out = s.out := rfl
@[simp] theorem construct_draws : (construct A s).draws = s.draws := rfl

/-! ## `Block.powerOn` -/

@[simp] theorem Block.powerOn_voice : (s.powerOn A).voice = VoiceState.zero A := rfl
@[simp] theorem Block.powerOn_params : (s.powerOn A).params = Vector.ofFn Config.defaultParams := rfl
@[simp] theorem Block.powerOn_presetIndex : (s.powerOn A).presetIndex = 0 := rfl
@[simp] theorem Block.powerOn_life : (s.powerOn A).life = .uninit := rfl
@[simp] theorem Block.powerOn_fault : (s.powerOn A).fault = none := rfl
@[simp] theorem Block.powerOn_faultWord : (s.powerOn A).faultWord = 0 := rfl
@[simp] theorem Block.powerOn_cmd : (s.powerOn A).cmd = [] := rfl
@[simp] theorem Block.powerOn_rsp : (s.powerOn A).rsp = [] := rfl
@[simp] theorem Block.powerOn_out : (s.powerOn A).out = [] := rfl
@[simp] theorem Block.powerOn_draws : (s.powerOn A).draws = s.draws := rfl

/-! ## `trigger` -/

@[simp] theorem trigger_params (n b : Byte) : (trigger A n b s).params = s.params := rfl
@[simp] theorem trigger_presetIndex (n b : Byte) : (trigger A n b s).presetIndex = s.presetIndex := rfl
@[simp] theorem trigger_life (n b : Byte) : (trigger A n b s).life = s.life := rfl
@[simp] theorem trigger_fault (n b : Byte) : (trigger A n b s).fault = s.fault := rfl
@[simp] theorem trigger_faultWord (n b : Byte) : (trigger A n b s).faultWord = s.faultWord := rfl
@[simp] theorem trigger_cmd (n b : Byte) : (trigger A n b s).cmd = s.cmd := rfl
@[simp] theorem trigger_rsp (n b : Byte) : (trigger A n b s).rsp = s.rsp := rfl
@[simp] theorem trigger_out (n b : Byte) : (trigger A n b s).out = s.out := rfl
@[simp] theorem trigger_draws (n b : Byte) : (trigger A n b s).draws = s.draws := rfl

/-! ## `placeCommand` -/

@[simp] theorem placeCommand_voice (w : Word) : (placeCommand w s).voice = s.voice := rfl
@[simp] theorem placeCommand_params (w : Word) : (placeCommand w s).params = s.params := rfl
@[simp] theorem placeCommand_presetIndex (w : Word) : (placeCommand w s).presetIndex = s.presetIndex := rfl
@[simp] theorem placeCommand_life (w : Word) : (placeCommand w s).life = .ready := rfl
@[simp] theorem placeCommand_fault (w : Word) : (placeCommand w s).fault = none := rfl
@[simp] theorem placeCommand_faultWord (w : Word) : (placeCommand w s).faultWord = s.faultWord := rfl
@[simp] theorem placeCommand_cmd (w : Word) : (placeCommand w s).cmd = w :: s.cmd := rfl
@[simp] theorem placeCommand_rsp (w : Word) : (placeCommand w s).rsp = s.rsp := rfl
@[simp] theorem placeCommand_out (w : Word) : (placeCommand w s).out = s.out := rfl
@[simp] theorem placeCommand_draws (w : Word) : (placeCommand w s).draws = s.draws := rfl

/-! ## `Block.withEngine` -/

@[simp] theorem Block.withEngine_voice (g : Engine E S) : (s.withEngine g).voice = g.voice := rfl
@[simp] theorem Block.withEngine_params (g : Engine E S) : (s.withEngine g).params = s.params := rfl
@[simp] theorem Block.withEngine_presetIndex (g : Engine E S) : (s.withEngine g).presetIndex = s.presetIndex := rfl
@[simp] theorem Block.withEngine_life (g : Engine E S) : (s.withEngine g).life = s.life := rfl
@[simp] theorem Block.withEngine_fault (g : Engine E S) : (s.withEngine g).fault = s.fault := rfl
@[simp] theorem Block.withEngine_faultWord (g : Engine E S) : (s.withEngine g).faultWord = s.faultWord := rfl
@[simp] theorem Block.withEngine_cmd (g : Engine E S) : (s.withEngine g).cmd = s.cmd := rfl
@[simp] theorem Block.withEngine_rsp (g : Engine E S) : (s.withEngine g).rsp = s.rsp := rfl
@[simp] theorem Block.withEngine_out (g : Engine E S) : (s.withEngine g).out = g.out := rfl
@[simp] theorem Block.withEngine_draws (g : Engine E S) : (s.withEngine g).draws = g.draws := rfl

/-! ## `renderFrames` -/

@[simp] theorem renderFrames_params (noise : Nat → S) (n : Nat) : (renderFrames A noise n s).params = s.params := rfl
@[simp] theorem renderFrames_presetIndex (noise : Nat → S) (n : Nat) : (renderFrames A noise n s).presetIndex = s.presetIndex := rfl
@[simp] theorem renderFrames_life (noise : Nat → S) (n : Nat) : (renderFrames A noise n s).life = s.life := rfl
@[simp] theorem renderFrames_fault (noise : Nat → S) (n : Nat) : (renderFrames A noise n s).fault = s.fault := rfl
@[simp] theorem renderFrames_faultWord (noise : Nat → S) (n : Nat) : (renderFrames A noise n s).faultWord = s.faultWord := rfl
@[simp] theorem renderFrames_cmd (noise : Nat → S) (n : Nat) : (renderFrames A noise n s).cmd = s.cmd := rfl
@[simp] theorem renderFrames_rsp (noise : Nat → S) (n : Nat) : (renderFrames A noise n s).rsp = s.rsp := rfl

/-! ## `setParam` -/

@[simp] theorem setParam_voice (i : Byte) (v : Half) : (setParam i v s).voice = s.voice := by unfold setParam; split <;> rfl
@[simp] theorem setParam_presetIndex (i : Byte) (v : Half) : (setParam i v s).presetIndex = s.presetIndex := by unfold setParam; split <;> rfl
@[simp] theorem setParam_life (i : Byte) (v : Half) : (setParam i v s).life = s.life := by unfold setParam; split <;> rfl
@[simp] theorem setParam_fault (i : Byte) (v : Half) : (setParam i v s).fault = s.fault := by unfold setParam; split <;> rfl
@[simp] theorem setParam_faultWord (i : Byte) (v : Half) : (setParam i v s).faultWord = s.faultWord := by unfold setParam; split <;> rfl
@[simp] theorem setParam_cmd (i : Byte) (v : Half) : (setParam i v s).cmd = s.cmd := by unfold setParam; split <;> rfl
@[simp] theorem setParam_rsp (i : Byte) (v : Half) : (setParam i v s).rsp = s.rsp := by unfold setParam; split <;> rfl
@[simp] theorem setParam_out (i : Byte) (v : Half) : (setParam i v s).out = s.out := by unfold setParam; split <;> rfl
@[simp] theorem setParam_draws (i : Byte) (v : Half) : (setParam i v s).draws = s.draws := by unfold setParam; split <;> rfl

/-! ## `loadPreset` -/

@[simp] theorem loadPreset_voice (p : Byte) : (loadPreset p s).voice = s.voice := by unfold loadPreset; split <;> rfl
@[simp] theorem loadPreset_life (p : Byte) : (loadPreset p s).life = s.life := by unfold loadPreset; split <;> rfl
@[simp] theorem loadPreset_fault (p : Byte) : (loadPreset p s).fault = s.fault := by unfold loadPreset; split <;> rfl
@[simp] theorem loadPreset_faultWord (p : Byte) : (loadPreset p s).faultWord = s.faultWord := by unfold loadPreset; split <;> rfl
@[simp] theorem loadPreset_cmd (p : Byte) : (loadPreset p s).cmd = s.cmd := by unfold loadPreset; split <;> rfl
@[simp] theorem loadPreset_rsp (p : Byte) : (loadPreset p s).rsp = s.rsp := by unfold loadPreset; split <;> rfl
@[simp] theorem loadPreset_out (p : Byte) : (loadPreset p s).out = s.out := by unfold loadPreset; split <;> rfl
@[simp] theorem loadPreset_draws (p : Byte) : (loadPreset p s).draws = s.draws := by unfold loadPreset; split <;> rfl

/-! ## `releaseNote` -/

@[simp] theorem releaseNote_params (n : Byte) : (releaseNote n s).params = s.params := by unfold releaseNote; split <;> rfl
@[simp] theorem releaseNote_presetIndex (n : Byte) : (releaseNote n s).presetIndex = s.presetIndex := by unfold releaseNote; split <;> rfl
@[simp] theorem releaseNote_life (n : Byte) : (releaseNote n s).life = s.life := by unfold releaseNote; split <;> rfl
@[simp] theorem releaseNote_fault (n : Byte) : (releaseNote n s).fault = s.fault := by unfold releaseNote; split <;> rfl
@[simp] theorem releaseNote_faultWord (n : Byte) : (releaseNote n s).faultWord = s.faultWord := by unfold releaseNote; split <;> rfl
@[simp] theorem releaseNote_cmd (n : Byte) : (releaseNote n s).cmd = s.cmd := by unfold releaseNote; split <;> rfl
@[simp] theorem releaseNote_rsp (n : Byte) : (releaseNote n s).rsp = s.rsp := by unfold releaseNote; split <;> rfl
@[simp] theorem releaseNote_out (n : Byte) : (releaseNote n s).out = s.out := by unfold releaseNote; split <;> rfl
@[simp] theorem releaseNote_draws (n : Byte) : (releaseNote n s).draws = s.draws := by unfold releaseNote; split <;> rfl

/-! ## The engine part -/

@[simp] theorem Block.engine_voice : s.engine.voice = s.voice := rfl
@[simp] theorem Block.engine_draws : s.engine.draws = s.draws := rfl
@[simp] theorem Block.engine_out : s.engine.out = s.out := rfl
@[simp] theorem Block.engine_withEngine (g : Engine E S) : (s.withEngine g).engine = g := rfl
@[simp] theorem Block.withEngine_engine : s.withEngine s.engine = s := rfl
@[simp] theorem Block.withEngine_withEngine (g h : Engine E S) : (s.withEngine g).withEngine h = s.withEngine h := rfl

/-! ## Parameters and presets -/

theorem setParam_known {i : Byte} (v : Half) (h : i.toNat < 22) :
    setParam i v s = { s with params := s.params.set i.toNat v h } := by simp [setParam, h]

theorem setParam_unknown {i : Byte} (v : Half) (h : ¬ i.toNat < 22) : setParam i v s = s := by simp [setParam, h]

theorem getParam_known {i : Byte} (h : i.toNat < 22) : getParam i s = s.params[i.toNat] := by simp [getParam, h]

theorem getParam_unknown {i : Byte} (h : ¬ i.toNat < 22) : getParam i s = 0 := by simp [getParam, h]

theorem loadPreset_known {p : Byte} (h : p.toNat < 5) :
    loadPreset p s =
      { s with params := Vector.ofFn (Config.presetTable ⟨p.toNat, h⟩), presetIndex := p } := by
  simp [loadPreset, h]

theorem loadPreset_unknown {p : Byte} (h : ¬ p.toNat < 5) : loadPreset p s = s := by simp [loadPreset, h]

/-! ## The Voice State's updates by note events -/

@[simp] theorem trigger_envPhase (n b : Byte) : (trigger A n b s).voice.envPhase = .attack := rfl
@[simp] theorem trigger_ampEnv (n b : Byte) : (trigger A n b s).voice.ampEnv = A.real 0 := rfl
@[simp] theorem trigger_phaseBody (n b : Byte) : (trigger A n b s).voice.phaseBody = s.voice.phaseBody := rfl
@[simp] theorem trigger_phaseOsc2 (n b : Byte) : (trigger A n b s).voice.phaseOsc2 = s.voice.phaseOsc2 := rfl
@[simp] theorem trigger_phaseClick (n b : Byte) : (trigger A n b s).voice.phaseClick = s.voice.phaseClick := rfl
@[simp] theorem trigger_currentNote (n b : Byte) : (trigger A n b s).voice.currentNote = n := rfl
@[simp] theorem trigger_currentVelocity (n b : Byte) : (trigger A n b s).voice.currentVelocity = velocityOf A b := rfl

/-- NOTEOFF's two outcomes (46_note_events.md R213). -/
theorem releaseNote_cases (n : Byte) :
    (noteMatches n s.voice.currentNote = true ∧ releasable s.voice.envPhase = true ∧
      releaseNote n s = { s with voice := { s.voice with envPhase := .release } }) ∨
    releaseNote n s = s := by
  unfold releaseNote
  split <;> rename_i h
  · rw [Bool.and_eq_true] at h
    exact .inl ⟨h.1, h.2, rfl⟩
  · exact .inr rfl

/-! ## The machine -/

@[simp] theorem toBlock_mk (b : Block ℚ Signal) : ({ toBlock := b } : State).toBlock = b := rfl
@[simp] theorem mk_toBlock (t : State) : ({ toBlock := t.toBlock } : State) = t := rfl
@[simp] theorem State.withEngine_toBlock (t : State) (g : Engine ℚ Signal) :
    (t.withEngine g).toBlock = t.toBlock.withEngine g := rfl
@[simp] theorem powerOn_toBlock (t : State) : (powerOn t).toBlock = t.toBlock.powerOn Arith.exact := rfl

theorem onState_next {f : Block ℚ Signal → Host.Outcome (Block ℚ Signal) Fault Refusal} {t : State}
    {b : Block ℚ Signal} (h : f t.toBlock = .next b) : onState f t = .next { toBlock := b } := by simp [onState, h]

theorem releasable_iff (p : EnvPhase) : releasable p = true ↔ p = .attack ∨ p = .decay := by
  cases p <;> simp [releasable]

end Sys2Proof.Machine
end

