-- ==== Sys2Proof/Machine/Block.lean ====
section
/-! DEFINITION. The block for any realisation `Arith` and any noise source, the OPEN arguments of 00_scope.md R6: its
commands and its loop (30_encoding.md R62, R66). The machine of `Sys2Proof.Machine.step` is the block of
`Arith.exact`. -/

namespace Sys2Proof.Machine

variable {E S : Type}

/-- Execute a command's rule, one arm per command (30_encoding.md R62). -/
def Block.exec (A : Arith E S) (noise : Nat → S) (i : Instr) (s : Block E S) :
    Host.Outcome (Block E S) Fault Refusal :=
  match i with
  | .init channels rate => initOn A channels rate s
  | .reset => resetOn A s
  | .teardown => teardownOn s
  | .suspend => suspendOn s
  | .resume => resumeOn s
  | .setp index value => setpOn index value s
  | .getp index => getpOn index s
  | .getstr index value => getstrOn index value s
  | .loadp preset => loadpOn preset s
  | .getpi => getpiOn s
  | .getpn preset => getpnOn preset s
  | .noteon note velocity => noteonOn A note velocity s
  | .noteoff note => noteoffOn note s
  | .pbend bend => pbendOn bend s
  | .chprs pressure => chprsOn pressure s
  | .atouch note pressure => atouchOn note pressure s
  | .render count => renderOn A noise count s

/-- One turn of the block's loop (30_encoding.md R66). -/
def Block.step (A : Arith E S) (noise : Nat → S) (s : Block E S) : Host.Outcome (Block E S) Fault Refusal :=
  turn (Block.exec A noise) (fun t => t) s

end Sys2Proof.Machine
end

