-- ==== Sys2Proof/Laws/Ops.lean ====
section
/-! SUPPORT. What each shared operation can do, said once: the acceptance of a command, one command, one turn of the
loop, on the block of any realisation and on the machine, which is the block of `Arith.exact`. -/

namespace Sys2Proof.Machine

variable {E S : Type}

/-! ## Acceptance (30_encoding.md R66) -/

theorem lifecycleFault_ready (i : Instr) : lifecycleFault i .ready = none := rfl

theorem lifecycleFault_failed (i : Instr) : lifecycleFault i .failed = some .useAfterFailedInit := rfl

theorem lifecycleFault_uninit (i : Instr) :
    lifecycleFault i .uninit = if isInit i then none else some .notInitialised := rfl

theorem accepted_of_none {i : Instr} {f : Block E S → Block E S} {s : Block E S} (h : lifecycleFault i s.life = none) :
    accepted i f s = .next (f s) := by simp [accepted, h]

theorem accepted_of_some {i : Instr} {f : Block E S → Block E S} {s : Block E S} {c : FaultCode}
    (h : lifecycleFault i s.life = some c) : accepted i f s = .next (raiseFault c (encode i) s) := by
  simp [accepted, h]

/-! ## One command -/

/-- A command's own effect on the block, without the acceptance checks. -/
def commandEffect (A : Arith E S) (noise : Nat → S) : Instr → Block E S → Block E S
  | .init channels rate => initEffect A channels rate
  | .reset => resetVoice A
  | .teardown => fun s => s
  | .suspend => fun s => s
  | .resume => fun s => s
  | .setp index value => setParam index value
  | .getp index => fun s => respond ((getParam index s).signExtend 32) s
  | .getstr index value => respond (paramStringId index value)
  | .loadp preset => loadPreset preset
  | .getpi => fun s => respond (s.presetIndex.zeroExtend 32) s
  | .getpn preset => respond (presetNameId preset)
  | .noteon note velocity => trigger A note velocity
  | .noteoff note => releaseNote note
  | .pbend _ => fun s => s
  | .chprs _ => fun s => s
  | .atouch _ _ => fun s => s
  | .render count => renderFrames A noise count.toNat

/-- A command's own effect on the machine. -/
def stateEffect (i : Instr) (s : State) : State where
  toBlock := commandEffect Arith.exact drawSignal i s.toBlock

theorem Block.exec_eq_accepted (A : Arith E S) (noise : Nat → S) (i : Instr) (s : Block E S) :
    Block.exec A noise i s = accepted i (commandEffect A noise i) s := by
  cases i <;> rfl

/-- The machine's command is the block's, in exact arithmetic. -/
theorem exec_eq_block (i : Instr) (s : State) : exec i s = onState (Block.exec Arith.exact drawSignal i) s := by
  cases i <;> rfl

/-- A command accepted has its own effect. -/
theorem exec_of_none {i : Instr} {s : State} (h : lifecycleFault i s.life = none) :
    exec i s = .next (stateEffect i s) := by
  rw [exec_eq_block, onState_next (by rw [Block.exec_eq_accepted, accepted_of_none h])]
  rfl

theorem exec_ready {i : Instr} {s : State} (h : s.life = .ready) : exec i s = .next (stateEffect i s) :=
  exec_of_none (by rw [h]; rfl)

/-- A command turned away raises its lifecycle fault and does nothing else. -/
theorem exec_of_some {i : Instr} {s : State} {c : FaultCode} (h : lifecycleFault i s.life = some c) :
    exec i s = .next { s with fault := some c, faultWord := encode i } := by
  rw [exec_eq_block, onState_next (by rw [Block.exec_eq_accepted, accepted_of_some h])]
  rfl

/-- Every command answers a next state: its own effect, or a lifecycle fault raised. -/
theorem exec_cases (i : Instr) (s : State) :
    (lifecycleFault i s.life = none ∧ exec i s = .next (stateEffect i s)) ∨
    ∃ c, lifecycleFault i s.life = some c ∧ exec i s = .next { s with fault := some c, faultWord := encode i } := by
  cases h : lifecycleFault i s.life with
  | none => exact .inl ⟨rfl, exec_of_none h⟩
  | some c => exact .inr ⟨c, rfl, exec_of_some h⟩

/-- INIT's own effect, case by case (47_lifecycle.md R230). -/
theorem initEffect_cases (A : Arith E S) (channels : Byte) (rate : Half) (s : Block E S) :
    (initStatus channels rate = 0 ∧
      initEffect A channels rate s = respond 0 { construct A s with life := .ready }) ∨
    (initStatus channels rate ≠ 0 ∧
      initEffect A channels rate s = respond (initStatus channels rate) { s with life := .failed }) := by
  unfold initEffect
  split <;> rename_i h
  · exact .inl ⟨h, rfl⟩
  · exact .inr ⟨h, rfl⟩

/-! ## One turn of the loop (30_encoding.md R66) -/

section
variable {M : Type} {execute : Instr → Block E S → Host.Outcome M Fault Refusal} {whole : Block E S → M} {s : Block E S}

theorem turn_stuck {c : FaultCode} (h : s.fault = some c) : turn execute whole s = .fault (.stuck c) := by
  simp [turn, h]

theorem turn_waits (h : s.fault = none) (hc : s.cmd = []) : turn execute whole s = .next (whole s) := by
  simp [turn, h, takeCommand, hc]

theorem turn_illegal {w : Word} {rest : List Word} {e : DecodeError} (h : s.fault = none) (hc : s.cmd = w :: rest)
    (hd : decode w = .error e) :
    turn execute whole s = .next (whole { s with cmd := rest, fault := some .illegalCommand, faultWord := w }) := by
  simp [turn, h, takeCommand, hc, hd, raiseFault]

theorem turn_runs {w : Word} {rest : List Word} {i : Instr} (h : s.fault = none) (hc : s.cmd = w :: rest)
    (hd : decode w = .ok i) : turn execute whole s = execute i { s with cmd := rest } := by
  simp [turn, h, takeCommand, hc, hd]

end

/-- The machine's step is the block's, in exact arithmetic. -/
theorem step_eq_block (s : State) : step s = onState (Block.step Arith.exact drawSignal) s := by
  rcases hf : s.fault with _ | c
  · rcases hc : s.cmd with _ | ⟨w, rest⟩
    · rw [step, turn_waits hf hc, onState_next (show Block.step _ _ s.toBlock = .next s.toBlock from turn_waits hf hc)]
    · rcases hd : decode w with e | i
      · rw [step, turn_illegal hf hc hd,
          onState_next (show Block.step _ _ s.toBlock = .next _ from turn_illegal hf hc hd)]
      · rw [step, turn_runs hf hc hd, exec_eq_block]
        have h : Block.step Arith.exact drawSignal s.toBlock = _ := turn_runs hf hc hd
        simp only [onState, h]
  · rw [step, turn_stuck hf]
    have h : Block.step Arith.exact drawSignal s.toBlock = _ := turn_stuck hf
    simp only [onState, h]

theorem step_stuck {s : State} {c : FaultCode} (h : s.fault = some c) : step s = .fault (.stuck c) := turn_stuck h

theorem step_waits {s : State} (h : s.fault = none) (hc : s.cmd = []) : step s = .next s := turn_waits h hc

theorem step_illegal {s : State} {w : Word} {rest : List Word} {e : DecodeError} (h : s.fault = none)
    (hc : s.cmd = w :: rest) (hd : decode w = .error e) :
    step s = .next { s with cmd := rest, fault := some .illegalCommand, faultWord := w } := turn_illegal h hc hd

theorem step_runs {s : State} {w : Word} {rest : List Word} {i : Instr} (h : s.fault = none)
    (hc : s.cmd = w :: rest) (hd : decode w = .ok i) : step s = exec i { s with cmd := rest } := turn_runs h hc hd

/-- Everything a step can do. -/
theorem step_cases (s : State) :
    (∃ c, s.fault = some c ∧ step s = .fault (.stuck c)) ∨
    (s.fault = none ∧ s.cmd = [] ∧ step s = .next s) ∨
    (∃ w rest e, s.fault = none ∧ s.cmd = w :: rest ∧ decode w = .error e ∧
      step s = .next { s with cmd := rest, fault := some .illegalCommand, faultWord := w }) ∨
    (∃ w rest i, s.fault = none ∧ s.cmd = w :: rest ∧ decode w = .ok i ∧
      step s = exec i { s with cmd := rest }) := by
  rcases Option.eq_none_or_eq_some s.fault with hf | ⟨c, hf⟩
  · refine .inr ?_
    cases hc : s.cmd with
    | nil => exact .inl ⟨hf, rfl, step_waits hf hc⟩
    | cons w rest =>
      cases hd : decode w with
      | error e => exact .inr (.inl ⟨w, rest, e, hf, rfl, hd, step_illegal hf hc hd⟩)
      | ok i => exact .inr (.inr ⟨w, rest, i, hf, rfl, hd, step_runs hf hc hd⟩)
  · exact .inl ⟨c, hf, step_stuck hf⟩

end Sys2Proof.Machine
end

