-- ==== Sys2Proof/Laws/PerInstr.lean ====
section
/-! SUPPORT. Statements about every command as data: its word lies in its own row of the table of 30_encoding.md R63,
and carries no reserved bit. -/

namespace Sys2Proof.Laws.TableRow

/-- The command's row. -/
def rowOf (i : Instr) : Option OpcodeRow := opcodeTable.find? fun r => r.mnemonic == mnemonic i

/-- The command's word matches its row: its opcode is the row's and its must-be-zero fields are zero. -/
def Statement (i : Instr) : Prop := (rowOf i).any fun r => r.matchesWord (encode i)

/-- A word matches a pattern under a mask when their common bits, read as numbers, are the pattern's. -/
theorem formatC_and (o a ma : Byte) (m mm : Half) :
    formatC o a m &&& formatC 0xFF ma mm = formatC o (a &&& ma) (m &&& mm) := by
  refine BitVec.eq_of_getLsbD_eq fun i hi => ?_
  have key : ∀ (x y : Byte) (z : Half), (formatC x y z).getLsbD i =
      if i < 16 then z.getLsbD i else if i < 24 then y.getLsbD (i - 16) else x.getLsbD (i - 24) := by
    intro x y z
    have h : (formatC x y z).getLsbD i = (x ++ y ++ z : BitVec (8 + 8 + 16)).getLsbD i := rfl
    rw [h, BitVec.getLsbD_append, BitVec.getLsbD_append]
    split_ifs <;> first | rfl | omega
  rw [BitVec.getLsbD_and, key, key, key]
  split_ifs
  · rw [BitVec.getLsbD_and]
  · rw [BitVec.getLsbD_and]
  · have h8 : i - 24 < 8 := by omega
    have : (0xFF : Byte).getLsbD (i - 24) = true := by
      interval_cases i <;> first | omega | decide
    rw [this, Bool.and_true]

theorem zero_and_byte : (0 : Byte) &&& 0xFF = 0 := by decide
theorem zero_and_half : (0 : Half) &&& 0xFFFF = 0 := by decide
theorem lowImm_and (b : Byte) : lowImm b &&& 0xFF00 = 0 := by revert b; decide

/-- A word of format C matches the row whose mask and pattern have these fields. -/
theorem matches_formatC {name : String} {o a a' ma : Byte} {m m' mm : Half} (ha : a &&& ma = a') (hm : m &&& mm = m') :
    OpcodeRow.matchesWord ⟨name, formatC o a' m', formatC 0xFF ma mm⟩ (formatC o a m) = true := by
  rw [OpcodeRow.matchesWord, beq_iff_eq]
  exact (formatC_and o a ma m mm).trans (by rw [ha, hm])

theorem init (c : Byte) (r : Half) : Statement (.init c r) :=
  matches_formatC BitVec.and_zero BitVec.and_zero

theorem reset : Statement .reset := by unfold Statement; decide

theorem teardown : Statement .teardown := by unfold Statement; decide

theorem suspend : Statement .suspend := by unfold Statement; decide

theorem resume : Statement .resume := by unfold Statement; decide

theorem setp (i : Byte) (v : Half) : Statement (.setp i v) :=
  matches_formatC BitVec.and_zero BitVec.and_zero

theorem getp (i : Byte) : Statement (.getp i) :=
  matches_formatC BitVec.and_zero zero_and_half

theorem getstr (i : Byte) (v : Half) : Statement (.getstr i v) :=
  matches_formatC BitVec.and_zero BitVec.and_zero

theorem loadp (p : Byte) : Statement (.loadp p) :=
  matches_formatC BitVec.and_zero zero_and_half

theorem getpi : Statement .getpi := by unfold Statement; decide

theorem getpn (p : Byte) : Statement (.getpn p) :=
  matches_formatC BitVec.and_zero zero_and_half

theorem noteon (n b : Byte) : Statement (.noteon n b) :=
  matches_formatC BitVec.and_zero (lowImm_and b)

theorem noteoff (n : Byte) : Statement (.noteoff n) :=
  matches_formatC BitVec.and_zero zero_and_half

theorem pbend (b : Half) : Statement (.pbend b) :=
  matches_formatC zero_and_byte BitVec.and_zero

theorem chprs (b : Byte) : Statement (.chprs b) :=
  matches_formatC zero_and_byte (lowImm_and b)

theorem atouch (n b : Byte) : Statement (.atouch n b) :=
  matches_formatC BitVec.and_zero (lowImm_and b)

theorem render (n : Half) : Statement (.render n) :=
  matches_formatC zero_and_byte BitVec.and_zero

end Sys2Proof.Laws.TableRow
end

