-- ==== Sys2Proof/Laws/Stages.lean ====
section
/-! SUPPORT. What each stage of a frame writes and leaves, and the shape of a frame and of several. -/

namespace Sys2Proof.Machine

variable {E S : Type} (A : Arith E S) (noise : Nat → S) (P : ParamSet) (v : VoiceState E S)

/-! ## Stage 1 (40_envelope.md) -/

/-- Stage 1 writes the four envelopes and `env_phase` only. -/
theorem envelopeStage_writes :
    envelopeStage A P v =
      { v with
        ampEnv := (envelopeStage A P v).ampEnv
        pitchEnv := (envelopeStage A P v).pitchEnv
        osc2Env := (envelopeStage A P v).osc2Env
        clickEnv := (envelopeStage A P v).clickEnv
        envPhase := (envelopeStage A P v).envPhase } := by
  unfold envelopeStage decayStep releaseStep attackStep fallStep decayTrackers
  split <;> simp only [] <;> split_ifs <;> rfl

@[simp] theorem envelopeStage_phaseBody : (envelopeStage A P v).phaseBody = v.phaseBody := by rw [envelopeStage_writes]
@[simp] theorem envelopeStage_phaseOsc2 : (envelopeStage A P v).phaseOsc2 = v.phaseOsc2 := by rw [envelopeStage_writes]
@[simp] theorem envelopeStage_phaseClick : (envelopeStage A P v).phaseClick = v.phaseClick := by rw [envelopeStage_writes]
@[simp] theorem envelopeStage_filterStage : (envelopeStage A P v).filterStage = v.filterStage := by rw [envelopeStage_writes]
@[simp] theorem envelopeStage_lastClick : (envelopeStage A P v).lastClick = v.lastClick := by rw [envelopeStage_writes]
@[simp] theorem envelopeStage_currentNote : (envelopeStage A P v).currentNote = v.currentNote := by rw [envelopeStage_writes]
@[simp] theorem envelopeStage_currentVelocity : (envelopeStage A P v).currentVelocity = v.currentVelocity := by rw [envelopeStage_writes]

/-- Nothing in Idle (R91). -/
theorem envelopeStage_idle (h : v.envPhase = .idle) : envelopeStage A P v = v := by simp [envelopeStage, h]

/-- The trackers decay in every frame that does not start in Idle (R91, R92). -/
theorem envelopeStage_trackers (h : v.envPhase ≠ .idle) :
    (envelopeStage A P v).pitchEnv = track A v.pitchEnv (ms A P .decay) ∧
    (envelopeStage A P v).osc2Env = track A v.osc2Env (ms A P .osc2Decay) ∧
    (envelopeStage A P v).clickEnv = track A v.clickEnv (ms A P .clickDecay) := by
  unfold envelopeStage decayStep releaseStep attackStep fallStep decayTrackers
  split
  · contradiction
  all_goals simp only []; split_ifs <;> exact ⟨rfl, rfl, rfl⟩

/-- The transitions a frame can make (R98). -/
theorem envelopeStage_envPhase :
    (envelopeStage A P v).envPhase = v.envPhase ∨
    (v.envPhase = .attack ∧ (envelopeStage A P v).envPhase = .decay) ∨
    ((v.envPhase = .decay ∨ v.envPhase = .release) ∧ (envelopeStage A P v).envPhase = .idle) := by
  unfold envelopeStage decayStep releaseStep attackStep fallStep decayTrackers
  split <;> rename_i h <;> simp only [] <;> (try split_ifs) <;> simp [h]

/-! ## Stages 2 to 5 -/

@[simp] theorem advancePhases_ampEnv : (advancePhases A P v).ampEnv = v.ampEnv := rfl
@[simp] theorem advancePhases_pitchEnv : (advancePhases A P v).pitchEnv = v.pitchEnv := rfl
@[simp] theorem advancePhases_osc2Env : (advancePhases A P v).osc2Env = v.osc2Env := rfl
@[simp] theorem advancePhases_clickEnv : (advancePhases A P v).clickEnv = v.clickEnv := rfl
@[simp] theorem advancePhases_envPhase : (advancePhases A P v).envPhase = v.envPhase := rfl
@[simp] theorem advancePhases_filterStage : (advancePhases A P v).filterStage = v.filterStage := rfl
@[simp] theorem advancePhases_lastClick : (advancePhases A P v).lastClick = v.lastClick := rfl
@[simp] theorem advancePhases_currentNote : (advancePhases A P v).currentNote = v.currentNote := rfl
@[simp] theorem advancePhases_currentVelocity : (advancePhases A P v).currentVelocity = v.currentVelocity := rfl

variable (g : Engine E S)

@[simp] theorem frame_ampEnv : (frame A noise P g).voice.ampEnv = (envelopeStage A P g.voice).ampEnv := rfl
@[simp] theorem frame_pitchEnv : (frame A noise P g).voice.pitchEnv = (envelopeStage A P g.voice).pitchEnv := rfl
@[simp] theorem frame_osc2Env : (frame A noise P g).voice.osc2Env = (envelopeStage A P g.voice).osc2Env := rfl
@[simp] theorem frame_clickEnv : (frame A noise P g).voice.clickEnv = (envelopeStage A P g.voice).clickEnv := rfl
@[simp] theorem frame_envPhase : (frame A noise P g).voice.envPhase = (envelopeStage A P g.voice).envPhase := rfl
@[simp] theorem frame_currentNote : (frame A noise P g).voice.currentNote = (envelopeStage A P g.voice).currentNote := rfl
@[simp] theorem frame_currentVelocity : (frame A noise P g).voice.currentVelocity = (envelopeStage A P g.voice).currentVelocity := rfl
@[simp] theorem frame_phaseBody :
    (frame A noise P g).voice.phaseBody = (advancePhases A P (envelopeStage A P g.voice)).phaseBody := rfl
@[simp] theorem frame_phaseOsc2 :
    (frame A noise P g).voice.phaseOsc2 = (advancePhases A P (envelopeStage A P g.voice)).phaseOsc2 := rfl
@[simp] theorem frame_phaseClick :
    (frame A noise P g).voice.phaseClick = (advancePhases A P (envelopeStage A P g.voice)).phaseClick := rfl

theorem frame_lastClick :
    (frame A noise P g).voice.lastClick =
      (clickOut A noise P (envelopeStage A P g.voice)
        (osc2Out A noise P (envelopeStage A P g.voice) g.draws).2).2.1 := rfl

theorem frame_draws :
    (frame A noise P g).draws =
      (clickOut A noise P (envelopeStage A P g.voice)
        (osc2Out A noise P (envelopeStage A P g.voice) g.draws).2).2.2 := rfl

/-- A frame writes the filter stages by stage 4 (43_filter.md R157). -/
theorem frame_filterStage :
    (frame A noise P g).voice.filterStage =
      (filterStep A P
        (driveStage A P
          (mixSignals A (bodyOut A P (envelopeStage A P g.voice)) (osc2Out A noise P (envelopeStage A P g.voice) g.draws).1
            (clickOut A noise P (envelopeStage A P g.voice)
              (osc2Out A noise P (envelopeStage A P g.voice) g.draws).2).1))
        g.voice.filterStage).2 := by
  rw [← envelopeStage_filterStage A P g.voice]
  rfl

/-- A frame appends one sample pair, left and right the same (44_output_render.md R166). -/
theorem exists_frame_out : ∃ x : S, (frame A noise P g).out = g.out ++ [⟨A.clip x, A.clip x⟩] := ⟨_, rfl⟩

@[simp] theorem frames_zero : frames A noise P 0 g = g := rfl

theorem frames_succ (n : Nat) : frames A noise P (n + 1) g = frames A noise P n (frame A noise P g) := rfl

/-- What a frame keeps, any number of frames keep. -/
theorem frames_induction {I : Engine E S → Prop} (h : ∀ g, I g → I (frame A noise P g)) :
    ∀ (n : Nat) (g : Engine E S), I g → I (frames A noise P n g)
  | 0, _, hg => hg
  | n + 1, g, hg => frames_induction h n (frame A noise P g) (h g hg)

/-- The filter's bypass is exact (43_filter.md R156). -/
theorem filterStep_off (mixed : S) (s : FilterStages S) (h : isOn P .filterEn = false) :
    filterStep A P mixed s = (mixed, s) := by simp [filterStep, h]

/-- The drive's bypass is exact (42_mixer_drive.md R141). -/
theorem driveStage_off (mix : S) (h : A.less (A.real 0) (pct A P .drive) = false) : driveStage A P mix = mix := by
  simp [driveStage, h]

/-! ## The class table (10_state.md R26, R27) -/

/-- Each stage converts a register as its class says. -/
theorem converted_eq (p : Param) :
    converted A P p =
      match p.cls with
      | .hz => .number (hz A P p)
      | .ms => .number (ms A P p)
      | .percent => .number (pct A P p)
      | .ratio => .number (ratio A P p)
      | .onOff => .truth (isOn P p)
      | .choice => .integer (choice P p) := rfl

/-! ## The exact realisation -/

/-- A tracker stays in [0, 1] (R92). -/
theorem track_exact_range (e m : ℚ) : 0 ≤ track Arith.exact e m ∧ track Arith.exact e m ≤ 1 := by
  unfold track
  split
  · exact ⟨le_refl (0 : ℚ), zero_le_one⟩
  · exact ⟨clamp01Rat_nonneg _, clamp01Rat_le_one _⟩

end Sys2Proof.Machine
end

