-- ==== Sys2Proof/Tests/Slice0.lean ====
section
/-! SUPPORT. The model's own tests, on fixed values: ill-formed lines, words written out from 30_encoding.md R62, single
commands with the results of 95_test_vectors.md, and for each obligation with hypotheses a state and operands that
meet them. -/

namespace Sys2Proof.Tests

open Sys2Proof.Machine Sys2Proof.Claims

/-! ## Well-formedness: one ill-formed line for each check (30_encoding.md R68) -/

theorem test_wf_init_rate : AsmLine.wellFormed (.init 65536 2) = false := by decide
theorem test_wf_init_channels : AsmLine.wellFormed (.init 48000 256) = false := by decide
theorem test_wf_setp_index : AsmLine.wellFormed (.setp 256 0) = false := by decide
theorem test_wf_setp_value : AsmLine.wellFormed (.setp 0 32768) = false := by decide
theorem test_wf_getp : AsmLine.wellFormed (.getp (-1)) = false := by decide
theorem test_wf_getstr_index : AsmLine.wellFormed (.getstr 256 0) = false := by decide
theorem test_wf_getstr_value : AsmLine.wellFormed (.getstr 16 (-32769)) = false := by decide
theorem test_wf_loadp : AsmLine.wellFormed (.loadp 256) = false := by decide
theorem test_wf_getpn : AsmLine.wellFormed (.getpn 256) = false := by decide
theorem test_wf_noteon_note : AsmLine.wellFormed (.noteon 256 0) = false := by decide
theorem test_wf_noteon_velocity : AsmLine.wellFormed (.noteon 60 256) = false := by decide
theorem test_wf_noteoff : AsmLine.wellFormed (.noteoff 256) = false := by decide
theorem test_wf_pbend : AsmLine.wellFormed (.pbend 65536) = false := by decide
theorem test_wf_chprs : AsmLine.wellFormed (.chprs 256) = false := by decide
theorem test_wf_atouch_note : AsmLine.wellFormed (.atouch (-1) 0) = false := by decide
theorem test_wf_atouch_pressure : AsmLine.wellFormed (.atouch 0 256) = false := by decide
theorem test_wf_render : AsmLine.wellFormed (.render (-1)) = false := by decide
theorem test_wf_setpreset : AsmLine.wellFormed (.setpreset 256) = false := by decide
/-- The values at the edges of their fields fit. -/
theorem test_wf_edges : AsmLine.wellFormed (.setp 255 (-32768)) = true ∧ AsmLine.wellFormed (.setp 0 32767) = true ∧
    AsmLine.wellFormed (.render 65536) = true := by decide

/-! ## Decoding: one word per command, its bits written out from 30_encoding.md R60 to R62 -/

theorem test_decode_init : decode (0b00000001#8 ++ 0b00000010#8 ++ 0b1011101110000000#16) = .ok (.init 2 48000) := by
  decide
theorem test_decode_reset : decode (0b00000010#8 ++ 0b00000000#8 ++ 0b0000000000000000#16) = .ok .reset := by decide
theorem test_decode_teardown : decode (0b00000011#8 ++ 0b00000000#8 ++ 0b0000000000000000#16) = .ok .teardown := by
  decide
theorem test_decode_suspend : decode (0b00000100#8 ++ 0b00000000#8 ++ 0b0000000000000000#16) = .ok .suspend := by decide
theorem test_decode_resume : decode (0b00000101#8 ++ 0b00000000#8 ++ 0b0000000000000000#16) = .ok .resume := by decide
theorem test_decode_setp : decode (0b00010000#8 ++ 0b00000101#8 ++ 0b1111111111111110#16) = .ok (.setp 5 (-2)) := by
  decide
theorem test_decode_getp : decode (0b00010001#8 ++ 0b00010101#8 ++ 0b0000000000000000#16) = .ok (.getp 21) := by decide
theorem test_decode_getstr : decode (0b00010010#8 ++ 0b00010000#8 ++ 0b0000000000000011#16) = .ok (.getstr 16 3) := by
  decide
theorem test_decode_loadp : decode (0b00011000#8 ++ 0b00000011#8 ++ 0b0000000000000000#16) = .ok (.loadp 3) := by decide
theorem test_decode_getpi : decode (0b00011001#8 ++ 0b00000000#8 ++ 0b0000000000000000#16) = .ok .getpi := by decide
theorem test_decode_getpn : decode (0b00011010#8 ++ 0b00000100#8 ++ 0b0000000000000000#16) = .ok (.getpn 4) := by decide
theorem test_decode_noteon : decode (0b00100000#8 ++ 0b00100100#8 ++ 0b0000000001111111#16) = .ok (.noteon 36 127) := by
  decide
theorem test_decode_noteoff : decode (0b00100001#8 ++ 0b11111111#8 ++ 0b0000000000000000#16) = .ok (.noteoff 255) := by
  decide
theorem test_decode_pbend : decode (0b00100010#8 ++ 0b00000000#8 ++ 0b0010000000000000#16) = .ok (.pbend 8192) := by
  decide
theorem test_decode_chprs : decode (0b00100011#8 ++ 0b00000000#8 ++ 0b0000000001000000#16) = .ok (.chprs 64) := by decide
theorem test_decode_atouch : decode (0b00100100#8 ++ 0b00100100#8 ++ 0b0000000001100100#16) = .ok (.atouch 36 100) := by
  decide
theorem test_decode_render : decode (0b00110000#8 ++ 0b00000000#8 ++ 0b0000000100000010#16) = .ok (.render 258) := by
  decide
/-- Refused words by name (95_test_vectors.md D2 to D6). -/
theorem test_decode_refuses : decode 0x06000000 = .error .reservedOpcode ∧ decode 0x11000001 = .error .reservedField ∧
    decode 0x20240100 = .error .reservedField ∧ decode 0x30010000 = .error .reservedField ∧
    decode 0x02000001 = .error .reservedField := by decide
/-- A line of text (95_test_vectors.md A2) and a pseudo-instruction of it (30_encoding.md R69). -/
theorem test_assemble_text : assembleText "SETP RELEASE, -1" = some [0x1005FFFF] ∧
    assembleText "NOTEOFFALL" = some [0x21FF0000] ∧ assembleText "SETP 0, 32768" = none := by decide

/-! ## Small states -/

/-- A block ready to run, all parameters 0. -/
def ready : State := { State.reset with params := Vector.replicate 22 0, life := .ready }

/-- A block where INIT failed. -/
def failed : State := { ready with life := .failed }

/-- A block before INIT. -/
def uninit : State := { ready with life := .uninit }

/-- The block with one parameter set. -/
def withParam (p : Param) (v : Half) (s : State) : State := { s with params := s.params.set p.index v p.index.isLt }

/-- The block with a note 36 of velocity 1 in a phase at an amplitude. -/
def playing (phase : EnvPhase) (amp : ℚ) (s : State) : State :=
  { s with voice := { s.voice with envPhase := phase, ampEnv := amp, currentNote := 36, currentVelocity := 1 } }

/-- The block with its three trackers at 1. -/
def struck (s : State) : State :=
  { s with voice := { s.voice with pitchEnv := 1, osc2Env := 1, clickEnv := 1 } }

/-- What a step's next state shows. -/
def shown {M α : Type} (o : Host.Outcome M Fault Refusal) (f : M → α) : Option α :=
  match o with
  | .next t => some (f t)
  | .fault _ => none
  | .refused _ => none

/-! ## Single commands -/

/-- 95_test_vectors.md L1, A14. -/
theorem test_init_ok : shown (exec (.init 2 48000) uninit) (fun t => (t.life, t.rsp, t.presetIndex)) =
    some (.ready, [0], 0) := by decide
/-- 95_test_vectors.md L4: the sample rate is reported first. -/
theorem test_init_rate_first : shown (exec (.init 1 44100) uninit) (fun t => (t.life, t.rsp)) = some (.failed, [1]) := by
  decide
/-- 95_test_vectors.md L6. -/
theorem test_reset : shown (exec .reset (struck (playing .decay (1 / 2) (withParam .pitch 60 ready))))
    (fun t => (t.voice, t.params[0])) = some (zeroVoice, 60) := by decide
/-- 95_test_vectors.md L7. -/
theorem test_teardown : exec .teardown (playing .decay 1 ready) = .next (playing .decay 1 ready) := by rfl
theorem test_suspend : exec .suspend (playing .decay 1 ready) = .next (playing .decay 1 ready) := by rfl
theorem test_resume : exec .resume (playing .decay 1 ready) = .next (playing .decay 1 ready) := by rfl
/-- 95_test_vectors.md A2: the value is stored raw. -/
theorem test_setp : shown (exec (.setp 5 0xFFFF) ready) (fun t => (rawInt t.params .release, t.rsp)) =
    some (-1, []) := by decide
/-- 95_test_vectors.md A4: an unknown index is ignored. -/
theorem test_setp_unknown : shown (exec (.setp 22 5) ready) (fun t => t.params.toList) =
    some (List.replicate 22 0) := by decide
/-- 95_test_vectors.md A7: sign extension. -/
theorem test_getp : shown (exec (.getp 12) (withParam .cutoff 0x8000 ready)) (fun t => t.rsp) = some [0xFFFF8000] := by decide
/-- 95_test_vectors.md A5. -/
theorem test_getp_unknown : shown (exec (.getp 22) ready) (fun t => t.rsp) = some [0] := by decide
/-- 95_test_vectors.md W8. -/
theorem test_getstr_wave : shown (exec (.getstr 16 0xFFFF) ready) (fun t => t.rsp) = some [0xFF] := by decide
/-- 95_test_vectors.md A10. -/
theorem test_getstr_none : shown (exec (.getstr 0 60) ready) (fun t => t.rsp) = some [0xFE] := by decide
/-- 95_test_vectors.md A12. -/
theorem test_loadp : shown (exec (.loadp 3) ready) (fun t => (t.params[21], t.presetIndex)) =
    some (Config.presetTable 3 21, 3) := by rfl
/-- 95_test_vectors.md A13. -/
theorem test_loadp_unknown : shown (exec (.loadp 9) { ready with presetIndex := 3 })
    (fun t => (t.params[0], t.presetIndex)) = some (0, 3) := by decide
/-- 95_test_vectors.md A12. -/
theorem test_getpi : shown (exec .getpi { ready with presetIndex := 3 }) (fun t => t.rsp) = some [3] := by decide
/-- 95_test_vectors.md A15, A16. -/
theorem test_getpn : shown (exec (.getpn 4) ready) (fun t => t.rsp) = some [4] := by decide
theorem test_getpn_unknown : shown (exec (.getpn 5) ready) (fun t => t.rsp) = some [0xFF] := by decide
/-- 95_test_vectors.md N3, N4: retrigger from Decay; the phase of the click stays. -/
theorem test_noteon : shown (exec (.noteon 40 255) { playing .decay (7 / 10) ready with
      voice := { (playing .decay (7 / 10) ready).voice with phaseClick := 1 / 4 } })
    (fun t => (t.voice.envPhase, t.voice.ampEnv, t.voice.currentNote, t.voice.currentVelocity, t.voice.phaseClick)) =
    some (.attack, 0, 40, 255 / 127, 1 / 4) := by decide +kernel
/-- 95_test_vectors.md N7. -/
theorem test_noteoff_all : shown (exec (.noteoff 255) (playing .decay 1 ready)) (fun t => t.voice.envPhase) =
    some .release := by decide
/-- 95_test_vectors.md N5. -/
theorem test_noteoff_other : shown (exec (.noteoff 37) (playing .attack 0 ready)) (fun t => t.voice.envPhase) =
    some .attack := by decide
/-- 95_test_vectors.md N10 to N12. -/
theorem test_pbend : exec (.pbend 8192) (playing .decay 1 ready) = .next (playing .decay 1 ready) := by rfl
theorem test_chprs : exec (.chprs 64) (playing .decay 1 ready) = .next (playing .decay 1 ready) := by rfl
theorem test_atouch : exec (.atouch 36 100) (playing .decay 1 ready) = .next (playing .decay 1 ready) := by rfl

/-- Program P3 of 95_test_vectors.md before its frame 2. -/
def beforeFrame2 : State :=
  let s := struck (playing .attack 0 (withParam .pitch 12000 (withParam .bodyLevel 100
    (withParam .osc2Ratio 10 (withParam .fmRatio 10 ready)))))
  { s with voice := { s.voice with phaseBody := .const (1 / 4), phaseOsc2 := 1 / 4, currentVelocity := 64 / 127 } }

/-- 95_test_vectors.md P3, frame 2. -/
theorem test_render_frame : shown (exec (.render 1) beforeFrame2)
    (fun t => (t.out, t.voice.ampEnv, t.voice.envPhase, t.voice.phaseBody, t.voice.phaseOsc2)) =
    some ([⟨.const (416 / 635), .const (416 / 635)⟩], 1, .decay, .const (1 / 2), 1 / 2) := by decide +kernel

/-- The parameters of 95_test_vectors.md section 2.2, "Draw order". -/
def beforeDraws : State :=
  struck (playing .attack 0 (withParam .decay 1000 (withParam .release 1000 (withParam .clickLevel 100
    (withParam .clickDecay 1000 (withParam .osc2En 1 (withParam .osc2Wave 4 (withParam .osc2Ratio 10
    (withParam .osc2Level 100 (withParam .fmRatio 10 (withParam .osc2Decay 1000 ready)))))))))))

/-- 95_test_vectors.md section 2.2: the secondary oscillator takes the first draw, the click the second; with draws
0.5 and −1 the mix is −119997.5 / 48000, and ATTACK is 0. -/
theorem test_render_draw_order : shown (exec (.render 1) beforeDraws)
    (fun t => (t.draws, t.voice.lastClick, t.out.map StereoFrame.left)) =
    some (2, .term 1 (.draw 1) (.const 0),
      [.ofAtom (.clip (.term (13 / 10 * (47999 / 48000)) (.draw 0)
        (.term (13 / 10 * 3 * (47999 / 48000)) (.draw 1) (.const 0))))]) := by decide +kernel

/-- 95_test_vectors.md F1: a RENDER's frame 1 writes the stages (the body alone, at 1), and the stages after frame 2. -/
theorem test_filter_step :
    shown (exec (.render 1) (withParam .filterEn 1 (withParam .cutoff 50 beforeFrame2))) (fun t => t.voice.filterStage) =
      some ⟨.const (14251831572 / 10 ^ 11), .const (14251831572 / 10 ^ 11), .const 0, .const 0⟩ ∧
    filterStep Arith.exact (withParam .filterEn 1 (withParam .cutoff 50 ready)).params (.const 1)
      ⟨.const (14251831572 / 10 ^ 11), .const (14251831572 / 10 ^ 11), .const 0, .const 0⟩ =
    (.const (228029305152 / 10 ^ 12),
      ⟨.const (185273810436 / 10 ^ 12), .const (228029305152 / 10 ^ 12), .const 0, .const 0⟩) := by decide +kernel

/-- 95_test_vectors.md X1, X2, X4. -/
theorem test_binary32 : binary32 (13 / 20 : ℚ) = 0x3F266666 ∧ binary32 (416 / 635 : ℚ) = 0x3F27B5D2 ∧
    binary32 (-1 : ℚ) = 0xBF800000 := by decide +kernel

/-! ## Another realisation of the arithmetic (00_scope.md R6) -/

/-- Whole numbers only: every constant and quotient is rounded down, every sine is 0. -/
def wholeNumbers : Arith Int Int where
  real q := q.floor
  add a b := a + b
  sub a b := a - b
  mul a b := a * b
  div a b := a / b
  abs a := a.natAbs
  frac _ := 0
  clamp01 a := min 1 (max 0 a)
  less a b := decide (a < b)
  atMost a b := decide (a ≤ b)
  same a b := decide (a = b)
  signal a := a
  plus x y := x + y
  minus x y := x - y
  scale x a := x * a
  divide x a := x / a
  sine _ := 0
  sineOf _ := 0
  tanh x := x
  wrap _ := 0
  clip x := min 1 (max (-1) x)

/-- The block of another `Arith` runs by that `Arith`: 100/127 is 0 in whole numbers. -/
theorem test_block_of_another_arith :
    shown (Block.exec wholeNumbers (fun _ => 1) (.noteon 36 100) { Block.reset wholeNumbers with life := .ready })
      (fun t => (t.voice.currentVelocity, t.voice.pitchEnv, t.voice.currentNote)) = some (0, 1, 36) := by
  decide +kernel

/-! ## Steps -/

/-- 95_test_vectors.md D8, D9, D10. -/
theorem test_step_faults :
    shown (step { uninit with cmd := [0x30000001] }) (fun t => (t.fault, t.faultWord, t.cmd)) =
      some (some .notInitialised, 0x30000001, []) ∧
    shown (step { uninit with cmd := [0x06000000] }) (fun t => (t.fault, t.faultWord)) =
      some (some .illegalCommand, 0x06000000) ∧
    shown (step { failed with cmd := [0x0102BB80] }) (fun t => (t.fault, t.faultWord)) =
      some (some .useAfterFailedInit, 0x0102BB80) := by decide
/-- The host's placement: the word is the very next command. -/
theorem test_withFetchWord : shown (step (State.reset.withFetchWord 32 0x11160000)) (fun t => (t.rsp, t.cmd)) =
    some ([0], []) := by decide

/-! ## Witnesses: states and operands that meet each obligation's hypotheses -/

theorem witness_EncodeDecodeRoundTrip : decode 0x10FF8000 = .ok (.setp 255 0x8000) := by decide
theorem witness_WordSpellsTheRowItMatches :
    decode 0x3000FFFF = .ok (.render 65535) ∧
    (⟨"RENDER", 0x30000000, 0xFFFF0000⟩ : OpcodeRow) ∈ opcodeTable ∧
    (0x3000FFFF : Word) &&& 0xFFFF0000 = 0x30000000 := by decide
theorem witness_IllegalWordRaisesIllegalCommand :
    illegalWord 0x00000000 ∧ illegalWord 0x31000000 ∧ illegalWord 0x20240100 ∧ ¬ illegalWord 0x202400FF ∧
    ({ ready with cmd := [0x06000000] } : State).fault = none ∧
    ({ ready with cmd := [0x06000000] } : State).cmd = 0x06000000 :: [] := by
  unfold illegalWord; decide
theorem witness_OperandsAreTheirFields :
    decode 0x202400FF = .ok (.noteon 36 255) ∧ decode 0x1210FFFF = .ok (.getstr 16 0xFFFF) := by decide
theorem witness_AssemblerNeverTruncates :
    lineFits (.getstr 255 32767) ∧ ¬ lineFits (.getstr 255 32768) ∧ lineFits (.pbend 65535) ∧ ¬ lineFits (.pbend 65536) ∧
    assemble (.render 65536) = some [0x3000FFFF, 0x30000001] ∧ assemble (.render 131070) = some [0x3000FFFF, 0x3000FFFF] ∧
    assemble .noteoffall = some [0x21FF0000] ∧ assemble (.setpreset 4) = some [0x18040000] ∧
    assemble (.setp 255 (-32768)) = some [0x10FF8000] ∧ assemble (.init 65535 255) = some [0x01FFFFFF] ∧
    assemble (.noteon 0 255) = some [0x200000FF] ∧ assemble (.render 65535) = some [0x3000FFFF] ∧
    assemble (.render 0) = some [0x30000000] := by
  refine ⟨?_, ?_, ?_, ?_, ?_⟩ <;> first | decide | (simp only [lineFits]; omega)
theorem witness_StepRunsTheDecodedCommand :
    ({ ready with cmd := [0x19000000, 0] } : State).fault = none ∧
    ({ ready with cmd := [0x19000000, 0] } : State).cmd = 0x19000000 :: [0] ∧ decode 0x19000000 = .ok .getpi := by
  decide
theorem witness_LoopChecksInOrder :
    ({ ready with fault := some .illegalCommand } : State).fault = some .illegalCommand ∧
    (ready.fault = none ∧ ready.cmd = []) ∧
    (({ failed with cmd := [0x06000000] } : State).cmd = 0x06000000 :: [] ∧
      decode 0x06000000 = .error .reservedOpcode) ∧
    (({ failed with cmd := [0x0102BB80] } : State).life = .failed ∧ decode 0x0102BB80 = .ok (.init 2 48000)) ∧
    (({ uninit with cmd := [0x30000001] } : State).life = .uninit ∧ decode 0x30000001 = .ok (.render 1)) ∧
    (({ uninit with cmd := [0x0102BB80] } : State).life = .uninit ∧ ({ ready with cmd := [0] } : State).life = .ready) := by
  decide
theorem witness_not_init : ∀ c r, Instr.render 1 ≠ .init c r := by intro c r h; cases h
theorem witness_FaultIsPreciseAndSticky :
    failed.life = .failed ∧ uninit.life = .uninit ∧ (∀ c r, Instr.getpi ≠ .init c r) ∧ illegalWord 0x02000001 ∧
    ({ ready with fault := some .notInitialised } : State).fault = some .notInitialised := by
  refine ⟨rfl, rfl, fun c r h => (by cases h), ?_, rfl⟩
  unfold illegalWord; decide
theorem witness_OnlyInitMovesTheLifecycle :
    shown (exec (.init 2 48000) uninit) (fun t => t.life) = some .ready ∧ uninit.life ≠ .ready ∧
    shown (step { failed with cmd := [0x19000000] }) (fun t => t.life) = some .failed ∧
    shown (step ready) (fun t => t.life) = some .ready := by decide
theorem witness_InitValidatesAndConstructs :
    uninit.life ≠ .failed ∧ ready.life ≠ .failed ∧ (47999 : Half).toNat ≠ 48000 ∧ (48000 : Half).toNat = 48000 ∧
    (1 : Byte).toNat ≠ 2 ∧ (2 : Byte).toNat = 2 := by decide
theorem witness_ResetZeroesTheVoiceState : (playing .release 1 ready).life = .ready := by decide
theorem witness_LifecycleHooksDoNothing : (playing .attack 0 ready).life = .ready := by decide
theorem witness_SetpStoresTheRawValue :
    ready.life = .ready ∧ (0 : Byte).toNat < 22 ∧ (21 : Byte).toNat < 22 ∧ 22 ≤ (22 : Byte).toNat ∧
    22 ≤ (255 : Byte).toNat := by decide
theorem witness_GetpAnswersTheRawValue :
    (withParam .osc2Decay 0x8000 ready).life = .ready ∧ (21 : Byte).toNat < 22 ∧ 22 ≤ (22 : Byte).toNat := by decide
theorem witness_SetpThenGetpRoundTrip : ready.life = .ready ∧ (21 : Byte).toNat < 22 ∧ (255 : Byte) ≠ 21 := by decide
theorem witness_GetstrAnswersTheIdentifier :
    ready.life = .ready ∧ (16 : Byte).toNat = 16 ∧ (21 : Byte).toNat ≤ 21 ∧ ¬ (22 : Byte).toNat ≤ 21 ∧
    (0 ≤ (4 : Half).toInt ∧ (4 : Half).toInt ≤ 4) ∧ ¬ (5 : Half).toInt ≤ 4 ∧ ¬ 0 ≤ (0xFFFF : Half).toInt := by decide
theorem witness_LoadpLoadsTheWholePreset : ready.life = .ready ∧ (4 : Byte).toNat < 5 ∧ 5 ≤ (5 : Byte).toNat := by decide
theorem witness_PresetLoadsAreIdempotent : ready.life = .ready ∧ (4 : Byte).toNat < 5 := by decide
theorem witness_GetpiAnswersTheLastPreset : ready.life = .ready ∧ (4 : Byte).toNat < 5 := by decide
theorem witness_GetpnAnswersTheNameIdentifier :
    ready.life = .ready ∧ (4 : Byte).toNat ≤ 4 ∧ ¬ (5 : Byte).toNat ≤ 4 := by decide
theorem witness_ParameterCommandsIgnoreTheVoice :
    ready.life = .ready ∧ ∃ a x, Instr.setp 5 1 = .setp a x := ⟨rfl, 5, 1, rfl⟩
theorem witness_NoteonTriggersTheVoice : (playing .decay 1 ready).life = .ready := by decide
theorem witness_NoteoffReleasesAMatchingNote :
    (playing .decay 1 ready).life = .ready ∧ (36 : Byte) = (playing .decay 1 ready).voice.currentNote ∧
    (255 : Byte).toNat = 255 ∧ (playing .attack 0 ready).voice.envPhase = .attack ∧
    (37 : Byte) ≠ (playing .attack 0 ready).voice.currentNote ∧ (254 : Byte).toNat ≠ 255 ∧
    (playing .release 1 ready).voice.envPhase = .release ∧ ready.voice.envPhase = .idle := by decide
theorem witness_IgnoredEventsDoNothing : (playing .decay 1 ready).life = .ready := by decide
theorem witness_OneResponsePerAnsweringCommand :
    failed.life = .failed ∧ uninit.life = .uninit ∧ ready.life = .ready ∧ (∀ c r, Instr.render 1 ≠ .init c r) ∧
    ∃ c r, Instr.init 2 48000 = .init c r := ⟨rfl, rfl, rfl, witness_not_init, 2, 48000, rfl⟩
theorem witness_EnvelopePhaseTransitions :
    (playing .attack 1 ready).life = .ready ∧ (∀ n, Instr.render 1 = .render n → n.toNat ≤ 1) ∧
    ∀ n, Instr.getpi = .render n → n.toNat ≤ 1 := by
  refine ⟨rfl, fun n h => ?_, fun n h => by cases h⟩
  cases h; decide

theorem witness_TrackersDecayLinearly :
    ready.life = .ready ∧ ready.voice.envPhase = .idle ∧ (struck (playing .attack 0 ready)).voice.envPhase ≠ .idle ∧
    raw ready .decay = 0 ∧ raw (withParam .decay 150 ready) .decay = 150 := by decide +kernel
theorem witness_AttackFrame :
    (playing .attack 0 (withParam .attack 1 ready)).life = .ready ∧
    (playing .attack 0 (withParam .attack 1 ready)).voice.envPhase = .attack ∧ raw ready .attack = 0 ∧
    1 ≤ (47 / 48 : ℚ) + rateOf (raw (withParam .attack 1 ready) .attack) ∧
    ¬ 1 ≤ (46 / 48 : ℚ) + rateOf (raw (withParam .attack 1 ready) .attack) := by decide +kernel
theorem witness_DecayAndReleaseFrame :
    (playing .decay 1 ready).life = .ready ∧ (playing .decay 1 ready).voice.envPhase = .decay ∧
    (playing .release 1 ready).voice.envPhase = .release ∧ raw ready .release = 0 ∧
    (1 / 48 : ℚ) - rateOf (raw (withParam .release 1 ready) .release) ≤ 0 ∧
    ¬ (2 / 48 : ℚ) - rateOf (raw (withParam .release 1 ready) .release) ≤ 0 := by decide +kernel
theorem witness_IdleFramesAreSilent :
    ready.life = .ready ∧ ready.voice.envPhase = .idle ∧ ready.voice.ampEnv = 0 := by decide +kernel
theorem witness_EnvelopeShapes :
    (playing .attack 0 (withParam .attack 1 ready)).life = .ready ∧
    ((playing .attack 0 (withParam .attack 1 ready)).voice.ampEnv = 0 ∧
      0 < raw (withParam .attack 1 ready) .attack ∧
      ((48 : Half).toNat : ℚ) ≤ 48 * raw (withParam .attack 1 ready) .attack) ∧
    ((playing .decay 1 (withParam .release 1 ready)).voice.ampEnv = 1 ∧
      0 < raw (withParam .release 1 ready) .release ∧
      ((48 : Half).toNat : ℚ) ≤ 48 * raw (withParam .release 1 ready) .release) ∧
    ((struck (playing .attack 0 ready)).voice.pitchEnv = 1 ∧ (struck (playing .attack 0 ready)).voice.osc2Env = 1 ∧
      (struck (playing .attack 0 ready)).voice.clickEnv = 1 ∧ 0 < raw (withParam .decay 1 ready) .decay ∧
      0 < raw (withParam .osc2Decay 1 ready) .osc2Decay ∧ 0 < raw (withParam .clickDecay 1 ready) .clickDecay) := by
  decide +kernel
/-- The trackers' clause: a frame of Attack leaves the machine outside Idle. -/
theorem witness_EnvelopeShapes_trackers :
    (shown (exec (.render 1) (struck (playing .attack 0 (withParam .attack 1 (withParam .decay 1 ready)))))
      fun t => t.voice.envPhase) = some .attack := by decide +kernel
theorem witness_ReleaseFallsToIdle :
    (playing .attack 1 (withParam .release 1 ready)).life = .ready ∧
    (playing .attack 1 (withParam .release 1 ready)).voice.envPhase = .attack ∧
    (36 : Byte) = (playing .attack 1 (withParam .release 1 ready)).voice.currentNote ∧
    (playing .decay 0 ready).voice.envPhase = .decay ∧
    0 ≤ (playing .attack 1 (withParam .release 1 ready)).voice.ampEnv ∧
    (playing .attack 1 (withParam .release 1 ready)).voice.ampEnv ≤ 1 ∧
    0 < raw (withParam .release 1 ready) .release ∧
    ((47 : Half).toNat : ℚ) / (48 * raw (withParam .release 1 ready) .release) < 1 := by decide +kernel
theorem witness_NegativeTimesHoldTheEnvelope :
    (playing .attack 0 (withParam .attack (-1) ready)).life = .ready ∧
    (playing .attack 0 (withParam .attack (-1) ready)).voice.envPhase = .attack ∧
    (playing .attack 0 (withParam .attack (-1) ready)).voice.ampEnv = 0 ∧
    raw (withParam .attack (-1) ready) .attack < 0 ∧
    (playing .decay 1 ready).voice.envPhase = .decay ∧ (playing .release 1 ready).voice.envPhase = .release ∧
    (playing .decay 1 ready).voice.ampEnv = 1 ∧ raw (withParam .release (-1) ready) .release < 0 := by decide +kernel

theorem witness_PhasesAdvance : beforeFrame2.life = .ready := by decide
theorem witness_WaveformsStayInRange : LegalNoise (fun _ => 1) ∧ LegalNoise (fun _ => -1) ∧ (0 : ℚ) ≤ 1 / 2 ∧
    (1 / 2 : ℚ) < 1 := by
  refine ⟨fun n => ?_, fun n => ?_, ?_, ?_⟩ <;> norm_num
/-- Both clauses of the click. -/
theorem witness_ClickHistoryAndDraws :
    beforeDraws.life = .ready ∧ shown (exec (.render 1) beforeDraws) (fun t => decide (0 < t.voice.clickEnv)) = some true ∧
    shown (exec (.render 1) beforeDraws) (fun t => t.voice.envPhase) = some .decay ∧
    shown (exec (.render 1) beforeFrame2) (fun t => t.voice.clickEnv) = some 0 := by decide +kernel
theorem witness_MixerAndDrive : raw ready .drive ≤ 0 ∧ raw (withParam .drive (-1) ready) .drive ≤ 0 := by decide +kernel
theorem witness_DrivenSignalIsBounded : 0 < raw (withParam .drive 1 ready) .drive ∧ raw ready .drive ≤ 0 := by
  decide +kernel
theorem witness_TwelveDecibelFilter :
    0 < rawInt (withParam .filterEn 1 ready).params .filterEn ∧
    rawInt (withParam .filterEn 1 ready).params .filterMode ≤ 0 ∧
    (withParam .filterEn 1 beforeDraws).life = .ready ∧ 0 < raw (withParam .filterEn 1 beforeDraws) .filterEn ∧
    raw (withParam .filterEn 1 beforeDraws) .filterMode ≤ 0 := by decide +kernel
theorem witness_TwentyFourDecibelFilter :
    0 < rawInt (withParam .filterMode 1 (withParam .filterEn 1 ready)).params .filterEn ∧
    0 < rawInt (withParam .filterMode 1 (withParam .filterEn 1 ready)).params .filterMode ∧
    (withParam .filterMode 1 (withParam .filterEn 1 beforeDraws)).life = .ready ∧ 0 < raw (withParam .filterMode 1 (withParam .filterEn 1 beforeDraws)) .filterEn ∧
    0 < raw (withParam .filterMode 1 (withParam .filterEn 1 beforeDraws)) .filterMode := by decide +kernel
theorem witness_FilterBypassIsExact :
    rawInt (withParam .filterEn (-1) ready).params .filterEn ≤ 0 ∧ ready.life = .ready ∧ raw ready .filterEn ≤ 0 := by
  decide +kernel
/-- The 12 dB mode on, CUTOFF 0. -/
def lowPass : State := withParam .filterEn 1 ready

/-- The 24 dB mode on, CUTOFF 0. -/
def steepLowPass : State := withParam .filterMode 1 lowPass

theorem coefficient_lowPass : coefficient lowPass.params = 0.116 ∧ coefficient steepLowPass.params = 0.116 := by
  have h : rawInt lowPass.params .cutoff = 0 ∧ rawInt steepLowPass.params .cutoff = 0 := by decide
  constructor <;> norm_num [coefficient, h.1, h.2]

/-- The stages of both modes at their fixed points, with the input 1 and CUTOFF 0. -/
theorem witness_DcGainOfTheCascade (noise : Nat → ℝ) :
    (0 < rawInt lowPass.params .filterEn ∧ rawInt lowPass.params .resonance = 0 ∧
      rawInt lowPass.params .filterMode ≤ 0 ∧
      ∀ k : Nat, (Signal.const (0.35013 * 0.116 ^ 2 * (10 / 7) ^ k)).value noise
        = (Signal.const 1).value noise * 0.35013 * coefficient lowPass.params ^ 2 * (10 / 7) ^ k) ∧
    (0 < rawInt steepLowPass.params .filterEn ∧ rawInt steepLowPass.params .resonance = 0 ∧
      0 < rawInt steepLowPass.params .filterMode ∧
      ∀ k : Nat, (Signal.const (0.35013 * 0.116 ^ 4 * (10 / 7) ^ k)).value noise
        = (Signal.const 1).value noise * 0.35013 * coefficient steepLowPass.params ^ 4 * (10 / 7) ^ k) := by
  refine ⟨⟨by decide, by decide, by decide, fun k => ?_⟩, by decide, by decide, by decide, fun k => ?_⟩
  · rw [coefficient_lowPass.1]; simp only [Signal.value]; push_cast; norm_num
  · rw [coefficient_lowPass.2]; simp only [Signal.value]; push_cast; norm_num
theorem witness_SampleOfOneFrame : beforeDraws.life = .ready := by decide
theorem witness_RenderRunsFramesInSequence :
    beforeDraws.life = .ready ∧ (65535 : Half).toNat + (0 : Half).toNat < 65536 := by decide
theorem witness_SplitRenderRunsTheSameFrames : beforeDraws.life = .ready := by decide
theorem witness_EverySampleIsBounded : beforeDraws.life = .ready := by decide
theorem witness_RenderLeavesTheRest : beforeDraws.life = .ready := by decide
/-- Two streams that differ, on a state that holds no draw. -/
theorem witness_RenderIsDeterminedByItsDraws : beforeDraws.life = .ready ∧
    realEngine (fun _ => 0) beforeDraws.engine = realEngine (fun n => if n < 2 then 0 else 1) beforeDraws.engine ∧
    ∀ k, 0 ≤ k → k < 2 → (fun _ => (0 : ℝ)) k = (fun n : Nat => if n < 2 then (0 : ℝ) else 1) k := by
  refine ⟨by decide, ?_, fun k _ h => by simp [h]⟩
  simp [realEngine, realVoice, Block.engine, beforeDraws, struck, playing, withParam, ready, State.reset, Block.reset,
    VoiceState.zero, Arith.exact]
theorem witness_RenderRefinesExactReals : beforeDraws.life = .ready := by decide
theorem witness_SampleWordIsNearest :
    ((-1 : ℝ) ≤ -1 ∧ (-1 : ℝ) ≤ 1) ∧ ((-1 : ℝ) ≤ 1 ∧ (1 : ℝ) ≤ 1) ∧ binary32Finite 0x7F7FFFFF = true ∧
    binary32Finite 0x80000000 = true := by
  refine ⟨⟨?_, ?_⟩, ⟨?_, ?_⟩, ?_, ?_⟩ <;> first | decide | norm_num
theorem witness_BufferLayout : ready.life = .ready ∧ 4097 % 4 ≠ 0 ∧ 4096 % 4 = 0 ∧ 0 < (1 : Half).toNat := by decide
theorem witness_StepKeepsTheInvariant : Inv ready ∧ step ready = .next ready := by
  refine ⟨⟨⟨fun noise => ?_, ?_, ?_, ?_, ?_, ?_, ?_, ?_, fun _ => rfl⟩, by decide, fun f h => ?_, ?_⟩, rfl⟩
  · simp [ready, State.reset, Block.reset, VoiceState.zero, Arith.exact]
  all_goals first | (simp [ready, State.reset, Block.reset, VoiceState.zero, Arith.exact] at *; done) | skip
  · show (0 : ℚ) ≤ 0 ∧ (0 : ℚ) ≤ 255 / 127
    norm_num
  · exact ⟨fun h => (nomatch h), fun h => (nomatch h), fun _ => rfl⟩

end Sys2Proof.Tests
end

section
/-! PROOF. The parameter registers by number, and the raw values that the conversions take (10_state.md R26, R27;
00_scope.md R12). -/

namespace Sys2Proof.Machine

open Sys2Proof.Claims

theorem index_eq_registerNumber (p : Param) : p.index = registerNumber p := by
  cases p <;> rfl

theorem cls_eq_registerClass (p : Param) : p.cls = registerClass p := by
  cases p <;> rfl

/-- The model's raw value is the one read by R26's register number. -/
theorem rawValue_eq_rawInt (P : ParamSet) (p : Param) : rawValue P p = rawInt P p := by
  simp only [rawValue, rawInt, index_eq_registerNumber]

theorem pct_exact (P : ParamSet) (p : Param) : pct Arith.exact P p = (rawInt P p : ℚ) / 100 := by
  rw [pct, rawValue_eq_rawInt]; rfl

theorem ratio_exact (P : ParamSet) (p : Param) : ratio Arith.exact P p = (rawInt P p : ℚ) / 10 := by
  rw [ratio, rawValue_eq_rawInt]; rfl

theorem hz_exact (P : ParamSet) (p : Param) : hz Arith.exact P p = (rawInt P p : ℚ) := by
  rw [hz, rawValue_eq_rawInt]; rfl

theorem ms_exact (P : ParamSet) (p : Param) : ms Arith.exact P p = (rawInt P p : ℚ) := by
  rw [ms, rawValue_eq_rawInt]; rfl

theorem isOn_eq_decide (P : ParamSet) (p : Param) : isOn P p = decide (0 < rawInt P p) := by
  rw [isOn, rawValue_eq_rawInt]

theorem isOn_iff (P : ParamSet) (p : Param) : isOn P p = true ↔ 0 < rawInt P p := by
  rw [isOn_eq_decide, decide_eq_true_iff]

theorem choice_eq_rawInt (P : ParamSet) (p : Param) : choice P p = rawInt P p := rawValue_eq_rawInt P p

/-- Settles O38: the register table is checked register by register, and each conversion is its formula on the raw
value read by register number. -/
theorem conversionsOfRawValues : Obligations.ConversionsOfRawValues := by
  unfold Obligations.ConversionsOfRawValues
  refine ⟨fun p => ⟨index_eq_registerNumber p, cls_eq_registerClass p⟩, fun P p =>
    ⟨pct_exact P p, ratio_exact P p, hz_exact P p, ms_exact P p, isOn_iff P p, choice_eq_rawInt P p, ?_⟩⟩
  cases h : registerClass p <;>
    simp only [converted_eq, cls_eq_registerClass, h, pct_exact, ratio_exact, hz_exact, ms_exact, isOn_eq_decide,
      choice_eq_rawInt]

end Sys2Proof.Machine
end

section
/-! PROOF. Taking real values commutes with the pipeline (00_scope.md R7, log entry 1): each formula of the five stages
in exact arithmetic stands for the same formula of `Arith.reals`, hence each stage, a frame, and any number of frames.
The lemmas go through the operation laws `exact_...` and unfold neither realisation. -/

namespace Sys2Proof.Machine

variable (noise : Nat → ℝ) (P : ParamSet)

/-! ## Conversions of raw values -/

theorem cast_pct (p : Param) : ((pct Arith.exact P p : ℚ) : ℝ) = pct Arith.reals P p := by
  simp only [pct, exact_div, exact_real]

theorem cast_ratio (p : Param) : ((ratio Arith.exact P p : ℚ) : ℝ) = ratio Arith.reals P p := by
  simp only [ratio, exact_div, exact_real]

theorem cast_hz (p : Param) : ((hz Arith.exact P p : ℚ) : ℝ) = hz Arith.reals P p := exact_real _

theorem cast_ms (p : Param) : ((ms Arith.exact P p : ℚ) : ℝ) = ms Arith.reals P p := exact_real _

/-! ## The Voice State's values, field by field -/

/-- The four filter stages as reals. -/
noncomputable def realStages (s : FilterStages Signal) : FilterStages ℝ :=
  ⟨s.s0.value noise, s.s1.value noise, s.s2.value noise, s.s3.value noise⟩

section
variable (v : Voice)

@[simp] theorem realVoice_phaseBody : (realVoice noise v).phaseBody = v.phaseBody.value noise := rfl
@[simp] theorem realVoice_phaseOsc2 : (realVoice noise v).phaseOsc2 = (v.phaseOsc2 : ℝ) := rfl
@[simp] theorem realVoice_phaseClick : (realVoice noise v).phaseClick = (v.phaseClick : ℝ) := rfl
@[simp] theorem realVoice_ampEnv : (realVoice noise v).ampEnv = (v.ampEnv : ℝ) := rfl
@[simp] theorem realVoice_pitchEnv : (realVoice noise v).pitchEnv = (v.pitchEnv : ℝ) := rfl
@[simp] theorem realVoice_osc2Env : (realVoice noise v).osc2Env = (v.osc2Env : ℝ) := rfl
@[simp] theorem realVoice_clickEnv : (realVoice noise v).clickEnv = (v.clickEnv : ℝ) := rfl
@[simp] theorem realVoice_envPhase : (realVoice noise v).envPhase = v.envPhase := rfl
@[simp] theorem realVoice_filterStage : (realVoice noise v).filterStage = realStages noise v.filterStage := rfl
@[simp] theorem realVoice_lastClick : (realVoice noise v).lastClick = v.lastClick.value noise := rfl
@[simp] theorem realVoice_currentVelocity : (realVoice noise v).currentVelocity = (v.currentVelocity : ℝ) := rfl

end

/-! ## Stage 1 (40_envelope.md) -/

theorem cast_rate (m : ℚ) : ((rate Arith.exact m : ℚ) : ℝ) = rate Arith.reals m := by
  simp only [rate, exact_div, exact_mul, exact_real]

theorem cast_track (e m : ℚ) : ((track Arith.exact e m : ℚ) : ℝ) = track Arith.reals e m := by
  simp only [track, apply_ite (Rat.cast : ℚ → ℝ), exact_same, exact_clamp01, exact_sub, exact_real, cast_rate]

theorem realVoice_decayTrackers (v : Voice) :
    realVoice noise (decayTrackers Arith.exact P v) = decayTrackers Arith.reals P (realVoice noise v) := by
  simp only [decayTrackers, realVoice, cast_track, cast_ms]

theorem realVoice_attackStep (v : Voice) :
    realVoice noise (attackStep Arith.exact P v) = attackStep Arith.reals P (realVoice noise v) := by
  simp only [attackStep, exact_same, exact_atMost, exact_add, exact_real, cast_rate, cast_ms, ← realVoice_ampEnv noise]
  split_ifs
  · rfl
  · rfl
  · simp only [realVoice, exact_clamp01, exact_add, cast_rate, cast_ms]

theorem realVoice_fallStep (v : Voice) :
    realVoice noise (fallStep Arith.exact P v) = fallStep Arith.reals P (realVoice noise v) := by
  simp only [fallStep, exact_same, exact_atMost, exact_sub, exact_real, cast_rate, cast_ms, ← realVoice_ampEnv noise]
  split_ifs
  · rfl
  · rfl
  · simp only [realVoice, exact_clamp01, exact_sub, cast_rate, cast_ms]

theorem realVoice_envelopeStage (v : Voice) :
    realVoice noise (envelopeStage Arith.exact P v) = envelopeStage Arith.reals P (realVoice noise v) := by
  cases h : v.envPhase with
  | idle => simp only [envelopeStage, realVoice_envPhase, h]
  | attack => simp only [envelopeStage, realVoice_envPhase, h, realVoice_attackStep, realVoice_decayTrackers]
  | decay =>
    simp only [envelopeStage, decayStep, realVoice_envPhase, h, realVoice_fallStep, realVoice_decayTrackers]
  | release =>
    simp only [envelopeStage, releaseStep, realVoice_envPhase, h, realVoice_fallStep, realVoice_decayTrackers]

/-! ## Stage 2 (41_oscillators.md) -/

section
variable (v : Voice) (n : Nat)

theorem cast_sweep : ((sweep Arith.exact P v : ℚ) : ℝ) = sweep Arith.reals P (realVoice noise v) := by
  simp only [sweep, exact_mul, exact_sub, exact_real, cast_hz, cast_pct, realVoice_pitchEnv]

theorem cast_osc2Freq : ((osc2Freq Arith.exact P v : ℚ) : ℝ) = osc2Freq Arith.reals P (realVoice noise v) := by
  simp only [osc2Freq, exact_mul, cast_sweep noise, cast_ratio]

theorem value_fmOffset : (fmOffset Arith.exact P v).value noise = fmOffset Arith.reals P (realVoice noise v) := by
  simp only [fmOffset, apply_ite (Signal.value noise), exact_same, exact_scale, exact_sine, exact_signal, exact_real,
    cast_pct, realVoice_phaseOsc2, realVoice_osc2Env]

theorem value_bodyOut : (bodyOut Arith.exact P v).value noise = bodyOut Arith.reals P (realVoice noise v) := by
  simp only [bodyOut, exact_scale, exact_sineOf, cast_pct, realVoice_phaseBody]

theorem value_bodyFreq : (bodyFreq Arith.exact P v).value noise = bodyFreq Arith.reals P (realVoice noise v) := by
  simp only [bodyFreq, exact_plus, exact_signal, cast_sweep noise, value_fmOffset]

/-- One case per waveform of R115, and one for every other choice. -/
theorem value_waveform (k : Int) (p : ℚ) :
    (waveform Arith.exact drawSignal k p n).map (Signal.value noise) id = waveform Arith.reals noise k p n := by
  unfold waveform
  split
  · simp only [Prod.map, id, exact_sine]
  · simp only [Prod.map, id, exact_signal, exact_sub, exact_mul, exact_real]
  · simp only [Prod.map, id, exact_signal, exact_sub, exact_mul, exact_abs, exact_real]
  · simp only [Prod.map, id, apply_ite (Signal.value noise), exact_less, exact_signal, exact_real]
  · simp only [Prod.map, id, value_drawSignal]
  · simp only [Prod.map, id, exact_signal, exact_real]

/-- The signal's value and the same next draw's number. -/
theorem value_osc2Out :
    (osc2Out Arith.exact drawSignal P v n).map (Signal.value noise) id =
      osc2Out Arith.reals noise P (realVoice noise v) n := by
  unfold osc2Out
  split
  · simp only [realVoice_phaseOsc2, ← value_waveform, Prod.map, id, exact_scale, cast_pct, realVoice_osc2Env]
  · simp only [Prod.map, id, exact_signal, exact_real]

theorem clickActive_realVoice : clickActive Arith.exact v = clickActive Arith.reals (realVoice noise v) := by
  simp only [clickActive, exact_less, exact_real, realVoice_envPhase, realVoice_clickEnv]

theorem value_clickBlend (draw : Signal) :
    (clickBlend Arith.exact P v draw).value noise =
      clickBlend Arith.reals P (realVoice noise v) (draw.value noise) := by
  simp only [clickBlend, exact_plus, exact_scale, exact_sub, exact_sine, exact_real, cast_pct, realVoice_phaseClick]

theorem value_clickLevelOut (blend : Signal) :
    (clickLevelOut Arith.exact P v blend).value noise =
      clickLevelOut Arith.reals P (realVoice noise v) (blend.value noise) := by
  simp only [clickLevelOut, exact_scale, exact_minus, exact_real, cast_pct, realVoice_lastClick, realVoice_clickEnv]

/-- The signal's value, the click history's value and the same next draw's number. -/
theorem value_clickOut :
    (clickOut Arith.exact drawSignal P v n).map (Signal.value noise) (Prod.map (Signal.value noise) id) =
      clickOut Arith.reals noise P (realVoice noise v) n := by
  unfold clickOut
  rw [clickActive_realVoice noise]
  split
  · simp only [Prod.map, id, value_clickLevelOut, value_clickBlend, value_drawSignal]
  · simp only [Prod.map, id, exact_signal, exact_real, realVoice_lastClick]

theorem realVoice_advancePhases :
    realVoice noise (advancePhases Arith.exact P v) = advancePhases Arith.reals P (realVoice noise v) := by
  simp only [advancePhases, realVoice, exact_wrap, exact_plus, exact_divide, exact_frac, exact_add, exact_div,
    exact_mul, exact_real, value_bodyFreq, cast_osc2Freq noise, cast_ratio, cast_hz]

end

/-- What stage 2 leaves, as reals. -/
noncomputable def realOscillators (r : OscillatorResult ℚ Signal) : OscillatorResult ℝ ℝ where
  body := r.body.value noise
  osc2 := r.osc2.value noise
  click := r.click.value noise
  voice := realVoice noise r.voice
  draws := r.draws

theorem realOscillators_oscillatorStage (v : Voice) (n : Nat) :
    realOscillators noise (oscillatorStage Arith.exact drawSignal P v n) =
      oscillatorStage Arith.reals noise P (realVoice noise v) n := by
  unfold oscillatorStage
  simp only [← value_osc2Out, ← value_clickOut, ← value_bodyOut, ← realVoice_advancePhases]
  rfl

/-! ## Stages 3 and 4 (42_mixer_drive.md, 43_filter.md) -/

theorem value_mixSignals (body osc2 click : Signal) :
    (mixSignals Arith.exact body osc2 click).value noise =
      mixSignals Arith.reals (body.value noise) (osc2.value noise) (click.value noise) := by
  simp only [mixSignals, exact_plus]

theorem value_driveStage (mix : Signal) :
    (driveStage Arith.exact P mix).value noise = driveStage Arith.reals P (mix.value noise) := by
  simp only [driveStage, apply_ite (Signal.value noise), exact_less, exact_scale, exact_tanh, exact_add, exact_mul,
    exact_div, exact_real, cast_pct]

theorem cast_filterCoeff : ((filterCoeff Arith.exact P : ℚ) : ℝ) = filterCoeff Arith.reals P := by
  simp only [filterCoeff, exact_mul, exact_add, exact_real, cast_pct]

theorem cast_squared (f : ℚ) : ((squared Arith.exact f : ℚ) : ℝ) = squared Arith.reals f := exact_mul f f

theorem cast_fourthPower (f : ℚ) : ((fourthPower Arith.exact f : ℚ) : ℝ) = fourthPower Arith.reals f := by
  simp only [fourthPower, exact_mul, cast_squared]

theorem cast_feedback12 (f : ℚ) : ((feedback12 Arith.exact P f : ℚ) : ℝ) = feedback12 Arith.reals P f := by
  simp only [feedback12, exact_mul, exact_sub, exact_real, cast_pct, cast_squared]

theorem cast_feedback24 (f : ℚ) : ((feedback24 Arith.exact P f : ℚ) : ℝ) = feedback24 Arith.reals P f := by
  simp only [feedback24, exact_mul, exact_sub, exact_real, cast_pct, cast_squared]

theorem value_poleStep (input old : Signal) :
    (poleStep Arith.exact input old).value noise = poleStep Arith.reals (input.value noise) (old.value noise) := by
  simp only [poleStep, exact_plus, exact_scale, exact_real]

theorem value_filterInput (mixed last : Signal) (fb gain : ℚ) :
    (filterInput Arith.exact mixed last fb gain).value noise =
      filterInput Arith.reals (mixed.value noise) (last.value noise) fb gain := by
  simp only [filterInput, exact_scale, exact_minus, exact_real]

section
variable (mixed : Signal) (s : FilterStages Signal)

theorem value_filter12 :
    (filter12 Arith.exact P mixed s).map (Signal.value noise) (realStages noise) =
      filter12 Arith.reals P (mixed.value noise) (realStages noise s) := by
  simp only [filter12, Prod.map, realStages, value_poleStep, value_filterInput, cast_feedback12, cast_squared,
    cast_filterCoeff]

theorem value_filter24 :
    (filter24 Arith.exact P mixed s).map (Signal.value noise) (realStages noise) =
      filter24 Arith.reals P (mixed.value noise) (realStages noise s) := by
  simp only [filter24, Prod.map, realStages, value_poleStep, value_filterInput, cast_feedback24, cast_fourthPower,
    cast_filterCoeff]

theorem value_filterStep :
    (filterStep Arith.exact P mixed s).map (Signal.value noise) (realStages noise) =
      filterStep Arith.reals P (mixed.value noise) (realStages noise s) := by
  unfold filterStep
  split_ifs
  · rfl
  · exact value_filter24 noise P mixed s
  · exact value_filter12 noise P mixed s

end

/-! ## Stage 5, the frame and its repetition (44_output_render.md) -/

theorem value_outputSample (v : Voice) (filtered : Signal) :
    (outputSample Arith.exact v filtered).value noise =
      outputSample Arith.reals (realVoice noise v) (filtered.value noise) := by
  simp only [outputSample, exact_clip, exact_scale, exact_mul, exact_real, realVoice_ampEnv, realVoice_currentVelocity]

/-- The commuting square of a frame, pasted from its stages' squares: the side of the reals is rewritten, stage by stage,
to the values of the exact results; the output sample is then the value of the exact one. -/
theorem realEngine_frame (g : Engine ℚ Signal) :
    realEngine noise (frame Arith.exact drawSignal P g) = frame Arith.reals noise P (realEngine noise g) := by
  simp only [frame, realEngine, ← realVoice_envelopeStage, ← realOscillators_oscillatorStage]
  simp only [realOscillators, ← value_mixSignals, ← value_driveStage, realVoice_filterStage, ← value_filterStep]
  simp only [List.map_append, List.map_cons, List.map_nil, realFrame, value_outputSample, Prod.map]
  rfl

/-- The commuting square of a frame, repeated. -/
theorem realEngine_frames :
    ∀ (n : Nat) (g : Engine ℚ Signal),
      realEngine noise (frames Arith.exact drawSignal P n g) = frames Arith.reals noise P n (realEngine noise g)
  | 0, _ => rfl
  | n + 1, g => by rw [frames_succ, frames_succ, realEngine_frames n, realEngine_frame]

/-- Settles O55: in READY a RENDER runs its frames on the engine part, and real values commute with each of them. -/
theorem renderRefinesExactReals : Obligations.RenderRefinesExactReals := by
  unfold Obligations.RenderRefinesExactReals
  intro n s noise hready
  exact ⟨stateEffect (.render n) s, exec_ready hready, realEngine_frames noise s.params n.toNat s.engine⟩

end Sys2Proof.Machine
end

section
/-! PROOF. The lifecycle register under the commands and the loop (10_state.md R32, 30_encoding.md R66): INIT alone
writes it. -/

namespace Sys2Proof.Machine

variable {E S : Type} (A : Arith E S) (noise : Nat → S)

/-- INIT ends READY or FAILED (47_lifecycle.md R230). -/
theorem initEffect_life (channels : Byte) (rate : Half) (s : Block E S) :
    (initEffect A channels rate s).life = .ready ∨ (initEffect A channels rate s).life = .failed := by
  obtain ⟨-, h⟩ | ⟨-, h⟩ := initEffect_cases A channels rate s
  · exact .inl (by rw [h, respond_life])
  · exact .inr (by rw [h, respond_life])

/-- Every effect but INIT's keeps the lifecycle register. -/
theorem commandEffect_life (i : Instr) (s : Block E S) :
    (commandEffect A noise i s).life = s.life ∨
    ((∃ c r, i = .init c r) ∧
      ((commandEffect A noise i s).life = .ready ∨ (commandEffect A noise i s).life = .failed)) := by
  cases i with
  | init channels rate => exact .inr ⟨⟨channels, rate, rfl⟩, initEffect_life A channels rate s⟩
  | reset | teardown | suspend | resume | setp | getp | getstr | loadp | getpi | getpn | noteon | noteoff | pbend
  | chprs | atouch | render => exact .inl (by simp [commandEffect])

/-- A command keeps the lifecycle register, or it is an INIT outside FAILED that ends READY or FAILED. -/
theorem exec_life {i : Instr} {s t : State} (h : exec i s = .next t) :
    t.life = s.life ∨
    ((∃ c r, i = .init c r) ∧ s.life ≠ .failed ∧ (t.life = .ready ∨ t.life = .failed)) := by
  obtain ⟨haccepted, he⟩ | ⟨c, -, he⟩ := exec_cases i s
  · obtain rfl := Host.Outcome.next.inj (he.symm.trans h)
    have hlife : s.life ≠ .failed := fun hf => by simp [hf, lifecycleFault_failed] at haccepted
    exact (commandEffect_life Arith.exact drawSignal i s.toBlock).imp_right fun ⟨hinit, hends⟩ => ⟨hinit, hlife, hends⟩
  · obtain rfl := Host.Outcome.next.inj (he.symm.trans h)
    exact .inl rfl

/-- What a step that takes place can do: wait, turn an illegal word away, or run the decoded command. -/
theorem step_next_cases {s t : State} (h : step s = .next t) :
    s.fault = none ∧
    (t = s ∨
      (∃ w rest, t = { s with cmd := rest, fault := some .illegalCommand, faultWord := w }) ∨
      ∃ i rest, exec i { s with cmd := rest } = .next t) := by
  obtain ⟨c, -, he⟩ | ⟨hf, -, he⟩ | ⟨w, rest, e, hf, -, -, he⟩ | ⟨w, rest, i, hf, -, -, he⟩ := step_cases s
  · rw [he] at h
    cases h
  · exact ⟨hf, .inl (Host.Outcome.next.inj (he.symm.trans h)).symm⟩
  · exact ⟨hf, .inr (.inl ⟨w, rest, (Host.Outcome.next.inj (he.symm.trans h)).symm⟩)⟩
  · exact ⟨hf, .inr (.inr ⟨i, rest, he.symm.trans h⟩)⟩

/-- A step keeps the lifecycle register, or moves it from UNINIT or READY to READY or FAILED. -/
theorem step_life {s t : State} (h : step s = .next t) :
    t.life = s.life ∨ (s.life ≠ .failed ∧ (t.life = .ready ∨ t.life = .failed)) := by
  obtain ⟨-, rfl | ⟨w, rest, rfl⟩ | ⟨i, rest, he⟩⟩ := step_next_cases h
  · exact .inl rfl
  · exact .inl rfl
  · exact (exec_life he).imp_right And.right

/-- Settles O11: by what a command and a step can do to the lifecycle register. -/
theorem onlyInitMovesTheLifecycle : Obligations.OnlyInitMovesTheLifecycle := by
  unfold Obligations.OnlyInitMovesTheLifecycle
  refine ⟨fun i s t h hmoved => (exec_life h).resolve_left hmoved, fun s t h => ?_⟩
  have hfault : s.fault = none := (step_next_cases h).1
  obtain hkept | ⟨hfrom, hto⟩ := step_life h
  · rw [hkept]
    exact ⟨id, id, hfault⟩
  · refine ⟨fun hfailed => absurd hfailed hfrom, fun _ => ?_, hfault⟩
    obtain hto | hto := hto <;> simp [hto]

end Sys2Proof.Machine
end

section
/-! PROOF. A parameter register read after a write of the same or of another index (10_state.md R25, R28;
45_parameters_presets.md R181, R182). -/

namespace Sys2Proof.Machine

variable {E S : Type} (s : Block E S)

theorem getParam_setParam_same {i : Byte} (v : Half) (h : i.toNat < 22) : getParam i (setParam i v s) = v := by
  rw [setParam_known s v h, getParam_known _ h]
  exact Vector.getElem_set_self _

/-- The other index may be unknown: then both reads answer 0. -/
theorem getParam_setParam_other {i j : Byte} (v : Half) (h : j ≠ i) :
    getParam j (setParam i v s) = getParam j s := by
  by_cases hi : i.toNat < 22
  · by_cases hj : j.toNat < 22
    · have hne : i.toNat ≠ j.toNat := fun e => h (BitVec.eq_of_toNat_eq e.symm)
      rw [setParam_known s v hi, getParam_known _ hj, getParam_known _ hj]
      exact Vector.getElem_set_ne hi hj hne
    · rw [getParam_unknown _ hj, getParam_unknown _ hj]
  · rw [setParam_unknown s v hi]

/-- Settles O18: in READY a SETP is a register write and a GETP answers a register read. -/
theorem setpThenGetpRoundTrip : Obligations.SetpThenGetpRoundTrip := by
  unfold Obligations.SetpThenGetpRoundTrip
  intro index other value s hready hindex
  have hready' : (stateEffect (.setp index value) s).life = .ready := (setParam_life _ index value).trans hready
  refine ⟨_, exec_ready hready, ⟨_, exec_ready hready', ?_⟩, fun hother =>
    ⟨_, _, exec_ready hready', exec_ready hready, ?_⟩⟩
  · simp [stateEffect, commandEffect, getParam_setParam_same _ value hindex, BitVec.signExtend]
  · simp [stateEffect, commandEffect, getParam_setParam_other _ value hother]

end Sys2Proof.Machine
end

section
/-! PROOF. What a command writes outside the engine part (the Voice State, the draw count, OUT) does not depend on the
engine part (10_state.md R24). -/

namespace Sys2Proof.Machine

variable {E S : Type} (A : Arith E S) (noise : Nat → S)

/-- Another engine part at the start changes the engine part at the end and nothing else. -/
theorem commandEffect_withEngine (i : Instr) (s : Block E S) (g : Engine E S) :
    ∃ g', commandEffect A noise i (s.withEngine g) = (commandEffect A noise i s).withEngine g' := by
  refine ⟨(commandEffect A noise i (s.withEngine g)).engine, ?_⟩
  cases i with
  | init channels rate => simp only [commandEffect, initEffect]; split <;> rfl
  | setp index value => simp only [commandEffect, setParam]; split <;> rfl
  | loadp preset => simp only [commandEffect, loadPreset]; split <;> rfl
  | noteoff note => simp only [commandEffect, releaseNote]; split_ifs <;> rfl
  | reset | teardown | suspend | resume | getp | getstr | getpi | getpn | noteon | pbend | chprs | atouch
  | render => rfl

/-- The same for a command on the machine, accepted or turned away: the lifecycle check reads no engine part. -/
theorem exec_withEngine (i : Instr) (s : State) (g : Engine ℚ Signal) :
    ∃ t g', exec i s = .next t ∧ exec i (s.withEngine g) = .next (t.withEngine g') := by
  obtain ⟨hl, he⟩ | ⟨c, hl, he⟩ := exec_cases i s
  · obtain ⟨g', hg'⟩ := commandEffect_withEngine Arith.exact drawSignal i s.toBlock g
    refine ⟨_, g', he, (exec_of_none (s := s.withEngine g) hl).trans ?_⟩
    rw [stateEffect, State.withEngine_toBlock, hg']
    rfl
  · exact ⟨_, g, he, exec_of_some hl⟩

/-- Settles O29: the two states differ in the engine part only, and so do the two results. -/
theorem noReadbackOfTheVoiceState : Obligations.NoReadbackOfTheVoiceState := by
  unfold Obligations.NoReadbackOfTheVoiceState
  intro i s v n o
  obtain ⟨t, g', ht, hu⟩ := exec_withEngine i s ⟨v, n, o⟩
  exact ⟨t, t.withEngine g', ht, hu, rfl, rfl, rfl, rfl, rfl, rfl, rfl⟩

end Sys2Proof.Machine
end

section
/-! PROOF. The Voice State's invariants (10_state.md R22, R23) and OUT's (44_output_render.md R166, R167), update by
update: reset, note events, the envelope stage, a frame, any number of frames. -/

namespace Sys2Proof.Machine

/-- The reset column meets every bound (10_state.md R20). -/
theorem voiceInv_zero : VoiceInv (VoiceState.zero Arith.exact) where
  phaseBody noise := by simp [VoiceState.zero, Arith.exact]
  phaseOsc2 := ⟨le_refl 0, zero_lt_one⟩
  phaseClick := ⟨le_refl 0, zero_lt_one⟩
  ampEnv := ⟨le_refl 0, zero_le_one⟩
  pitchEnv := ⟨le_refl 0, zero_le_one⟩
  osc2Env := ⟨le_refl 0, zero_le_one⟩
  clickEnv := ⟨le_refl 0, zero_le_one⟩
  currentVelocity := ⟨le_refl 0, by positivity⟩
  idleSilent _ := rfl

/-! ## Note events (46_note_events.md) -/

/-- A byte is at most 255. -/
theorem velocityOf_exact_range (b : Byte) :
    0 ≤ velocityOf Arith.exact b ∧ velocityOf Arith.exact b ≤ 255 / 127 := by
  have hb : (b.toNat : ℚ) ≤ 255 := by exact_mod_cast Nat.le_of_lt_succ b.isLt
  have hv : velocityOf Arith.exact b = (b.toNat : ℚ) / 127 := rfl
  rw [hv]
  exact ⟨by positivity, by gcongr⟩

theorem voiceInv_trigger {s : Block ℚ Signal} (note velocity : Byte) (h : VoiceInv s.voice) :
    VoiceInv (trigger Arith.exact note velocity s).voice where
  phaseBody := h.phaseBody
  phaseOsc2 := h.phaseOsc2
  phaseClick := h.phaseClick
  ampEnv := ⟨le_refl 0, zero_le_one⟩
  pitchEnv := ⟨zero_le_one, le_refl 1⟩
  osc2Env := ⟨zero_le_one, le_refl 1⟩
  clickEnv := ⟨zero_le_one, le_refl 1⟩
  currentVelocity := velocityOf_exact_range velocity
  idleSilent hidle := nomatch hidle

/-- NOTEOFF writes `env_phase` alone, and not to Idle. -/
theorem voiceInv_releaseNote {s : Block ℚ Signal} (note : Byte) (h : VoiceInv s.voice) :
    VoiceInv (releaseNote note s).voice := by
  obtain ⟨-, -, he⟩ | he := releaseNote_cases s note <;> rw [he]
  · exact { h with idleSilent := fun hidle => nomatch hidle }
  · exact h

/-! ## Stage 1 (40_envelope.md) -/

/-- Attack's two outcomes: 1 and Decay, or a clamped value (R93). -/
theorem attackStep_cases {E S : Type} (A : Arith E S) (P : ParamSet) (v : VoiceState E S) :
    attackStep A P v = { v with ampEnv := A.real 1, envPhase := .decay } ∨
    ∃ a, attackStep A P v = { v with ampEnv := A.clamp01 a } := by
  simp only [attackStep]
  split_ifs
  · exact .inl rfl
  · exact .inl rfl
  · exact .inr ⟨_, rfl⟩

/-- Decay's and Release's two outcomes: 0 and Idle, or a clamped value (R95, R96). -/
theorem fallStep_cases {E S : Type} (A : Arith E S) (P : ParamSet) (v : VoiceState E S) :
    fallStep A P v = { v with ampEnv := A.real 0, envPhase := .idle } ∨
    ∃ a, fallStep A P v = { v with ampEnv := A.clamp01 a } := by
  simp only [fallStep]
  split_ifs
  · exact .inl rfl
  · exact .inl rfl
  · exact .inr ⟨_, rfl⟩

@[simp] theorem decayTrackers_envPhase {E S : Type} (A : Arith E S) (P : ParamSet) (v : VoiceState E S) :
    (decayTrackers A P v).envPhase = v.envPhase := rfl

section
variable (P : ParamSet) (v : Voice)

theorem attackStep_ampEnv_range :
    0 ≤ (attackStep Arith.exact P v).ampEnv ∧ (attackStep Arith.exact P v).ampEnv ≤ 1 := by
  obtain h | ⟨a, h⟩ := attackStep_cases Arith.exact P v <;> rw [h]
  · exact ⟨zero_le_one, le_refl 1⟩
  · exact ⟨clamp01Rat_nonneg a, clamp01Rat_le_one a⟩

theorem fallStep_ampEnv_range :
    0 ≤ (fallStep Arith.exact P v).ampEnv ∧ (fallStep Arith.exact P v).ampEnv ≤ 1 := by
  obtain h | ⟨a, h⟩ := fallStep_cases Arith.exact P v <;> rw [h]
  · exact ⟨le_refl 0, zero_le_one⟩
  · exact ⟨clamp01Rat_nonneg a, clamp01Rat_le_one a⟩

/-- Decay and Release enter Idle at 0 only (R95, R96). -/
theorem fallStep_idleSilent (hv : v.envPhase ≠ .idle) (hidle : (fallStep Arith.exact P v).envPhase = .idle) :
    (fallStep Arith.exact P v).ampEnv = 0 := by
  obtain h | ⟨a, h⟩ := fallStep_cases Arith.exact P v <;> rw [h] at hidle ⊢
  · rfl
  · exact absurd hidle hv

theorem envelopeStage_ampEnv_range (h : 0 ≤ v.ampEnv ∧ v.ampEnv ≤ 1) :
    0 ≤ (envelopeStage Arith.exact P v).ampEnv ∧ (envelopeStage Arith.exact P v).ampEnv ≤ 1 := by
  unfold envelopeStage
  split
  · exact h
  · exact attackStep_ampEnv_range P _
  · exact fallStep_ampEnv_range P _
  · exact fallStep_ampEnv_range P _

/-- A frame that starts in Idle or ends in it has the amplitude 0 (R91, R98). -/
theorem envelopeStage_idleSilent (h : v.envPhase = .idle → v.ampEnv = 0)
    (hidle : (envelopeStage Arith.exact P v).envPhase = .idle) : (envelopeStage Arith.exact P v).ampEnv = 0 := by
  cases hv : v.envPhase with
  | idle => rw [envelopeStage_idle _ _ _ hv]; exact h hv
  | attack =>
    have hnever := envelopeStage_envPhase Arith.exact P v
    simp [hv, hidle] at hnever
  | decay =>
    simp only [envelopeStage, hv, decayStep] at hidle ⊢
    exact fallStep_idleSilent P _ (by simp [hv]) hidle
  | release =>
    simp only [envelopeStage, hv, releaseStep] at hidle ⊢
    exact fallStep_idleSilent P _ (by simp [hv]) hidle

theorem voiceInv_envelopeStage {v : Voice} (h : VoiceInv v) : VoiceInv (envelopeStage Arith.exact P v) := by
  by_cases hv : v.envPhase = .idle
  · rw [envelopeStage_idle _ _ _ hv]
    exact h
  · obtain ⟨hpitch, hosc2, hclick⟩ := envelopeStage_trackers Arith.exact P v hv
    exact
      { phaseBody := by simpa using h.phaseBody
        phaseOsc2 := by simpa using h.phaseOsc2
        phaseClick := by simpa using h.phaseClick
        ampEnv := envelopeStage_ampEnv_range P v h.ampEnv
        pitchEnv := hpitch ▸ track_exact_range _ _
        osc2Env := hosc2 ▸ track_exact_range _ _
        clickEnv := hclick ▸ track_exact_range _ _
        currentVelocity := by simpa using h.currentVelocity
        idleSilent := envelopeStage_idleSilent P v h.idleSilent }

end

/-! ## A frame and its repetition (44_output_render.md) -/

/-- A sample pair of one clipped signal meets OUT's invariant. -/
theorem frameInv_clip (x : Signal) : FrameInv ⟨x.clip, x.clip⟩ :=
  ⟨rfl, fun noise => ⟨neg_one_le_value_clip noise x, value_clip_le_one noise x⟩⟩

/-- The invariant of what a frame reads and writes. -/
structure EngineInv (g : Engine ℚ Signal) : Prop where
  voice : VoiceInv g.voice
  out : ∀ f ∈ g.out, FrameInv f

/-- A frame's phases are fractional parts; the rest of the bounded Voice State is as stage 1 left it. -/
theorem voiceInv_frame (P : ParamSet) {g : Engine ℚ Signal} (h : VoiceInv g.voice) :
    VoiceInv (frame Arith.exact drawSignal P g).voice :=
  { voiceInv_envelopeStage P h with
    phaseBody := fun noise => ⟨value_frac_nonneg noise _, value_frac_lt_one noise _⟩
    phaseOsc2 := ⟨fracRat_nonneg _, fracRat_lt_one _⟩
    phaseClick := ⟨fracRat_nonneg _, fracRat_lt_one _⟩ }

theorem engineInv_frame (P : ParamSet) (g : Engine ℚ Signal) (h : EngineInv g) :
    EngineInv (frame Arith.exact drawSignal P g) where
  voice := voiceInv_frame P h.voice
  out f hf := by
    obtain ⟨x, hx⟩ := exists_frame_out Arith.exact drawSignal P g
    rw [hx, List.mem_append, List.mem_singleton] at hf
    obtain hold | rfl := hf
    · exact h.out f hold
    · exact frameInv_clip x

theorem engineInv_frames (P : ParamSet) (n : Nat) {g : Engine ℚ Signal} (h : EngineInv g) :
    EngineInv (frames Arith.exact drawSignal P n g) :=
  frames_induction Arith.exact drawSignal P (engineInv_frame P) n g h

end Sys2Proof.Machine
end

section
/-! PROOF. The block's invariant (10_state.md R22, R23, R31, R32; 44_output_render.md R166, R167): at reset, under each
command's effect, and under a step. The data's part of it and the fault register's part are kept apart: an accepted
command works on the data and leaves the fault register, a fault raised does the opposite. -/

namespace Sys2Proof.Machine

/-- The invariant of the data: `Inv` without its fault register's part. -/
structure DataInv (s : Block ℚ Signal) : Prop where
  voice : VoiceInv s.voice
  presetIndex : s.presetIndex.toNat ≤ 4
  out : ∀ f ∈ s.out, FrameInv f

theorem inv_iff (s : State) : Inv s ↔ DataInv s.toBlock ∧ FaultInv s :=
  ⟨fun h => ⟨⟨h.voice, h.presetIndex, h.out⟩, h.fault⟩, fun ⟨h, hf⟩ => ⟨h.voice, h.presetIndex, h.out, hf⟩⟩

/-! ## The data under each effect -/

section
variable {s : Block ℚ Signal} (h : DataInv s)
include h

theorem dataInv_respond (w : Word) : DataInv (respond w s) := ⟨h.voice, h.presetIndex, h.out⟩

theorem dataInv_resetVoice : DataInv (resetVoice Arith.exact s) := ⟨voiceInv_zero, h.presetIndex, h.out⟩

theorem dataInv_initEffect (channels : Byte) (rate : Half) : DataInv (initEffect Arith.exact channels rate s) := by
  obtain ⟨-, he⟩ | ⟨-, he⟩ := initEffect_cases Arith.exact channels rate s <;> rw [he]
  · exact ⟨voiceInv_zero, Nat.zero_le 4, h.out⟩
  · exact ⟨h.voice, h.presetIndex, h.out⟩

theorem dataInv_setParam (index : Byte) (value : Half) : DataInv (setParam index value s) :=
  ⟨by simpa using h.voice, by simpa using h.presetIndex, by simpa using h.out⟩

theorem dataInv_loadPreset (preset : Byte) : DataInv (loadPreset preset s) := by
  by_cases hp : preset.toNat < 5
  · rw [loadPreset_known s hp]
    exact ⟨h.voice, Nat.le_of_lt_succ hp, h.out⟩
  · rwa [loadPreset_unknown s hp]

theorem dataInv_trigger (note velocity : Byte) : DataInv (trigger Arith.exact note velocity s) :=
  ⟨voiceInv_trigger note velocity h.voice, h.presetIndex, h.out⟩

theorem dataInv_releaseNote (note : Byte) : DataInv (releaseNote note s) :=
  ⟨voiceInv_releaseNote note h.voice, by simpa using h.presetIndex, by simpa using h.out⟩

theorem dataInv_renderFrames (n : Nat) : DataInv (renderFrames Arith.exact drawSignal n s) :=
  have hg : EngineInv (frames Arith.exact drawSignal s.params n s.engine) :=
    engineInv_frames s.params n ⟨h.voice, h.out⟩
  ⟨hg.voice, h.presetIndex, hg.out⟩

/-- Every command's effect keeps the data's invariant. -/
theorem dataInv_commandEffect (i : Instr) : DataInv (commandEffect Arith.exact drawSignal i s) := by
  cases i with
  | init channels rate => exact dataInv_initEffect h channels rate
  | reset => exact dataInv_resetVoice h
  | setp index value => exact dataInv_setParam h index value
  | loadp preset => exact dataInv_loadPreset h preset
  | noteon note velocity => exact dataInv_trigger h note velocity
  | noteoff note => exact dataInv_releaseNote h note
  | render count => exact dataInv_renderFrames h count.toNat
  | getp | getstr | getpi | getpn => exact dataInv_respond h _
  | teardown | suspend | resume | pbend | chprs | atouch => exact h

end

/-! ## The fault register -/

section
variable {E S : Type} (A : Arith E S) (noise : Nat → S) (i : Instr) (s : Block E S)

/-- No effect writes the fault register or the fault word: only the acceptance checks raise faults. -/
theorem commandEffect_fault :
    (commandEffect A noise i s).fault = s.fault ∧ (commandEffect A noise i s).faultWord = s.faultWord := by
  cases i with
  | init channels rate =>
    obtain ⟨-, he⟩ | ⟨-, he⟩ := initEffect_cases A channels rate s <;> simp [commandEffect, he]
  | reset | teardown | suspend | resume | setp | getp | getstr | loadp | getpi | getpn | noteon | noteoff | pbend
  | chprs | atouch | render => simp [commandEffect]

end

theorem faultInv_of_none {s : State} (h : s.fault = none) (hw : s.faultWord = 0) : FaultInv s := by
  simp [FaultInv, h, hw]

/-- The lifecycle checks raise code 2 in UNINIT only and code 3 in FAILED only (60_exceptions.md R251). -/
theorem life_of_lifecycleFault {i : Instr} {l : Life} {c : FaultCode} (h : lifecycleFault i l = some c) :
    (c = .notInitialised ∧ l = .uninit) ∨ (c = .useAfterFailedInit ∧ l = .failed) := by
  cases l with
  | uninit =>
    rw [lifecycleFault_uninit] at h
    split_ifs at h
    exact .inl ⟨(Option.some.inj h).symm, rfl⟩
  | ready => cases h
  | failed => exact .inr ⟨(Option.some.inj h).symm, rfl⟩

/-- Any command, accepted or turned away, keeps the invariant when no fault is held. -/
theorem inv_exec {i : Instr} {s t : State} (h : Inv s) (hfault : s.fault = none) (he : exec i s = .next t) :
    Inv t := by
  obtain ⟨hdata, -, -, hword⟩ := (inv_iff s).mp h
  refine (inv_iff t).mpr ?_
  obtain ⟨-, hx⟩ | ⟨c, hc, hx⟩ := exec_cases i s
  · obtain rfl := Host.Outcome.next.inj (hx.symm.trans he)
    obtain ⟨hf, hw⟩ := commandEffect_fault Arith.exact drawSignal i s.toBlock
    exact ⟨dataInv_commandEffect hdata i, faultInv_of_none (hf.trans hfault) (hw.trans (hword hfault))⟩
  · obtain rfl := Host.Outcome.next.inj (hx.symm.trans he)
    refine ⟨⟨hdata.voice, hdata.presetIndex, hdata.out⟩, ?_⟩
    obtain ⟨rfl, hl⟩ | ⟨rfl, hl⟩ := life_of_lifecycleFault hc <;> simp [FaultInv, hl]

/-- Settles O59: the Voice State is zero, OUT is empty and no fault is held. -/
theorem invariantAtReset : Obligations.InvariantAtReset := by
  unfold Obligations.InvariantAtReset
  exact (inv_iff _).mpr ⟨⟨voiceInv_zero, Nat.zero_le 4, fun _ hf => nomatch hf⟩, faultInv_of_none rfl rfl⟩

/-- Settles O60: a step waits, raises ILLEGAL_COMMAND, or runs a command, which keeps the invariant. -/
theorem stepKeepsTheInvariant : Obligations.StepKeepsTheInvariant := by
  unfold Obligations.StepKeepsTheInvariant
  intro s t h hstep
  obtain ⟨hfault, rfl | ⟨w, rest, rfl⟩ | ⟨i, rest, he⟩⟩ := step_next_cases hstep
  · exact h
  · exact ⟨h.voice, h.presetIndex, h.out, by simp [FaultInv]⟩
  · have hconsumed : Inv { s with cmd := rest } := ⟨h.voice, h.presetIndex, h.out, h.fault⟩
    exact inv_exec hconsumed hfault he

end Sys2Proof.Machine
end

section
/-! PROOF. A serialised word: its bytes in order, and the word read back from them (20_memory.md R42). -/

namespace Sys2Proof

/-- A byte cut out of a word is the word's digit in base 256. -/
theorem extractByte_eq_digit (w : Word) (i : Nat) :
    w.extractLsb' (8 * i) 8 = BitVec.ofNat 8 (w.toNat / 256 ^ i) := by
  rw [BitVec.extractLsb', Nat.shiftRight_eq_div_pow, pow_mul]
  norm_num

@[simp] theorem length_wordBytes (w : Word) : (wordBytes w).length = 4 := rfl

theorem getElem?_wordBytes (w : Word) {i : Nat} (hi : i < 4) : (wordBytes w)[i]? = some (w.extractLsb' (8 * i) 8) := by
  interval_cases i <;> rfl

/-- Each byte put above those below it widens the cut of the word by one byte, up to the whole word. -/
theorem append_bytes_eq (w : Word) :
    (w.extractLsb' 24 8 ++ w.extractLsb' 16 8 ++ w.extractLsb' 8 8 ++ w.extractLsb' 0 8 : Word) = w := by
  have widen (start len : Nat) :
      w.extractLsb' (start + 8) len ++ w.extractLsb' start 8 = w.extractLsb' start (len + 8) :=
    BitVec.extractLsb'_append_extractLsb'_eq_extractLsb' rfl
  rw [widen 16, widen 8, widen 0]
  exact BitVec.extractLsb'_eq_self

theorem wordOfBytes_wordBytes_append (w : Word) (rest : List Byte) :
    wordOfBytes (wordBytes w ++ rest) = some (w, rest) :=
  congrArg (fun v => some (v, rest)) (append_bytes_eq w)

/-- Settles O56: byte `i` is the word's digit `256 ^ i`, and the four bytes appended are the word. -/
theorem wordsAreLittleEndian : Obligations.WordsAreLittleEndian := by
  unfold Obligations.WordsAreLittleEndian
  exact fun w rest => ⟨fun i hi => by rw [getElem?_wordBytes w hi, extractByte_eq_digit],
    wordOfBytes_wordBytes_append w rest⟩

end Sys2Proof
end

section
/-! PROOF. OUT under frames and RENDER (44_output_render.md R166, R169): the old frames stay, the new ones follow. -/

namespace Sys2Proof.Machine

section
variable {E S : Type} (A : Arith E S) (noise : Nat → S)

/-- `n` frames append `n` sample pairs to OUT and keep the older ones. -/
theorem exists_frames_out (P : ParamSet) :
    ∀ (n : Nat) (g : Engine E S), ∃ fs, (frames A noise P n g).out = g.out ++ fs ∧ fs.length = n
  | 0, g => ⟨[], (List.append_nil _).symm, rfl⟩
  | n + 1, g => by
    obtain ⟨x, hx⟩ := exists_frame_out A noise P g
    obtain ⟨fs, hfs, hlen⟩ := exists_frames_out P n (frame A noise P g)
    refine ⟨⟨A.clip x, A.clip x⟩ :: fs, ?_, by rw [List.length_cons, hlen]⟩
    rw [frames_succ, hfs, hx, List.append_assoc, List.singleton_append]

theorem exists_renderFrames_out (n : Nat) (s : Block E S) :
    ∃ fs, (renderFrames A noise n s).out = s.out ++ fs ∧ fs.length = n :=
  exists_frames_out A noise s.params n s.engine

end

/-- In READY a RENDER answers a state whose OUT is the old one and then its `n` frames. -/
theorem exists_exec_render_out {n : Half} {s : State} (hready : s.life = .ready) :
    ∃ t fs, exec (.render n) s = .next t ∧ t.out = s.out ++ fs ∧ fs.length = n.toNat := by
  obtain ⟨fs, hout, hlen⟩ := exists_renderFrames_out Arith.exact drawSignal n.toNat s.toBlock
  exact ⟨stateEffect (.render n) s, fs, exec_ready hready, hout, hlen⟩

end Sys2Proof.Machine
end

section
/-! PROOF. The buffer of a RENDER, byte by byte (20_memory.md R43, R44). -/

namespace Sys2Proof.Machine

/-- Blocks of one length laid end to end: position `m * k + j` is position `j` of block `k`. -/
theorem getElem?_flatMap_of_length {α β : Type} {f : α → List β} {m j : Nat} (hlen : ∀ x, (f x).length = m)
    (hj : j < m) : ∀ (xs : List α) (k : Nat), (xs.flatMap f)[m * k + j]? = xs[k]?.bind fun x => (f x)[j]?
  | [], _ => rfl
  | x :: xs, 0 => by
    rw [List.flatMap_cons, Nat.mul_zero, Nat.zero_add, List.getElem?_append_left (by rwa [hlen])]
    rfl
  | x :: xs, k + 1 => by
    have hpos : m * (k + 1) + j - m = m * k + j := by rw [Nat.mul_succ]; omega
    have hge : m ≤ m * (k + 1) + j := by rw [Nat.mul_succ]; omega
    rw [List.flatMap_cons, List.getElem?_append_right (by rwa [hlen]), hlen, hpos,
      getElem?_flatMap_of_length hlen hj xs k, List.getElem?_cons_succ]

/-- Byte `i` lies at the address `a + i`. -/
theorem cellsFrom_eq_mapIdx : ∀ (bs : List Byte) (a : Nat), cellsFrom a bs = bs.mapIdx fun i b => (a + i, b)
  | [], _ => rfl
  | b :: bs, a => by
    rw [cellsFrom, cellsFrom_eq_mapIdx bs, List.mapIdx_cons]
    simp only [Nat.add_zero, Nat.add_right_comm a 1, Nat.add_assoc]

section
variable {K : Type} [Field K] [LinearOrder K] [FloorRing K]

@[simp] theorem length_frameBytes (f : StereoFrame K) : (frameBytes f).length = 8 := rfl

theorem length_bufferCells (base : Nat) (fs : List (StereoFrame K)) :
    (bufferCells base fs).length = 8 * fs.length := by
  simp [bufferCells, cellsFrom_eq_mapIdx, List.length_flatMap, Nat.mul_comm]

/-- Byte `j` of frame `k` lies at `base + 8 * k + j` (20_memory.md R43). -/
theorem getElem?_bufferCells (base : Nat) {fs : List (StereoFrame K)} {k j : Nat} {f : StereoFrame K} {b : Byte}
    (hf : fs[k]? = some f) (hj : j < 8) (hb : (frameBytes f)[j]? = some b) :
    (bufferCells base fs)[8 * k + j]? = some (base + 8 * k + j, b) := by
  rw [bufferCells, cellsFrom_eq_mapIdx, List.getElem?_mapIdx, getElem?_flatMap_of_length length_frameBytes hj, hf,
    Option.bind_some, hb, Option.map_some, Nat.add_assoc]

end

/-! ## RENDER into a buffer -/

theorem renderToBuffer_misaligned (noise : Nat → ℝ) {base : Nat} (n : Half) (s : State) (h : base % 4 ≠ 0) :
    renderToBuffer noise base n s = .refused (.misalignedBuffer base) := if_pos h

/-- With an aligned base the buffer holds the frames that the RENDER appends to OUT. -/
theorem renderToBuffer_aligned (noise : Nat → ℝ) {base : Nat} {n : Half} {s t : State}
    {fs : List (StereoFrame Signal)} (h : base % 4 = 0) (hexec : exec (.render n) s = .next t)
    (hout : t.out = s.out ++ fs) :
    renderToBuffer noise base n s = .next (t, bufferCells base (fs.map (realFrame noise))) := by
  rw [renderToBuffer, if_neg (not_not_intro h), hexec]
  simp only [hout, List.drop_left]

/-- Settles O58: frame `k` of the buffer is frame `k` of those that the RENDER appends to OUT, as real values. -/
theorem bufferLayout : Obligations.BufferLayout := by
  unfold Obligations.BufferLayout
  intro noise base n s hready
  refine ⟨renderToBuffer_misaligned noise n s, fun haligned => ?_⟩
  obtain ⟨t, fs, hexec, hout, hlen⟩ := exists_exec_render_out (n := n) hready
  refine ⟨t, _, hexec, renderToBuffer_aligned noise haligned hexec hout, ?_, fun k j hk hj => ?_⟩
  · rw [length_bufferCells, List.length_map, hlen]
  · obtain ⟨f, hf⟩ : ∃ f, fs[k]? = some f := ⟨_, List.getElem?_eq_getElem (hlen ▸ hk)⟩
    obtain ⟨b, hb⟩ : ∃ b, (frameBytes (realFrame noise f))[j]? = some b := ⟨_, List.getElem?_eq_getElem hj⟩
    have hreal : (fs.map (realFrame noise))[k]? = some (realFrame noise f) := by rw [List.getElem?_map, hf]; rfl
    have ht : t.out[s.out.length + k]? = some f := by
      rw [hout, List.getElem?_append_right (Nat.le_add_right _ k), Nat.add_sub_cancel_left, hf]
    exact ⟨f, b, ht, hb, getElem?_bufferCells base hreal hj hb⟩

end Sys2Proof.Machine
end

section
/-! PROOF. Commands and words are the same up to `encode` and `decode` (30_encoding.md R60 to R62, R65, R68): a word is
put together from its fields in one way, so either function undoes the other. -/

namespace Sys2Proof

/-- A word of format C is determined by its three fields. -/
theorem formatC_eq_iff {o a : Byte} {m : Half} {w : Word} :
    formatC o a m = w ↔ opcField w = o ∧ aField w = a ∧ immField w = m := by
  constructor
  · rintro rfl
    exact ⟨opcField_formatC o a m, aField_formatC o a m, immField_formatC o a m⟩
  · rintro ⟨rfl, rfl, rfl⟩
    exact formatC_fields w

/-- A 16-bit field that holds an 8-bit operand is the operand's exactly when its high byte is zero. -/
theorem immField_eq_lowImm_iff {w : Word} {b : Byte} :
    immField w = lowImm b ↔ immHighField w = 0 ∧ immLowField w = b := by
  constructor
  · intro h
    rw [← formatC_fields w, h]
    exact ⟨immHighField_formatC_lowImm _ _ b, immLowField_formatC_lowImm _ _ b⟩
  · rintro ⟨hhigh, rfl⟩
    exact (lowImm_immLowField hhigh).symm

theorem decode_encode (i : Instr) : decode (encode i) = .ok i := by
  cases i <;>
    simp [encode, decode, requireZero, opcField_formatC, aField_formatC, immField_formatC,
      immHighField_formatC_lowImm, immLowField_formatC_lowImm]

/-- Each arm of the decoder has checked the opcode and the reserved fields, and takes the operands from the others. -/
theorem encode_of_decode {w : Word} {i : Instr} (h : decode w = .ok i) : encode i = w := by
  unfold decode at h
  split at h <;> rename_i hopc
  -- No arm for the opcode; INIT, SETP and GETSTR, which reserve nothing; the arms that check reserved fields.
  case h_18 => cases h
  case h_1 | h_6 | h_8 =>
    obtain rfl := Except.ok.inj h
    exact formatC_eq_iff.mpr ⟨hopc, rfl, rfl⟩
  all_goals
    obtain ⟨hzero, rfl⟩ := requireZero_eq_ok.mp h
    simp_all [encode, formatC_eq_iff, immField_eq_lowImm_iff]

theorem decode_eq_ok_iff {w : Word} {i : Instr} : decode w = .ok i ↔ encode i = w :=
  ⟨encode_of_decode, fun h => h ▸ decode_encode i⟩

/-- Settles O1: each field of the command's word is the one the decoder reads. -/
theorem decodeEncodeRoundTrip : Obligations.DecodeEncodeRoundTrip := by
  unfold Obligations.DecodeEncodeRoundTrip
  exact decode_encode

/-- Settles O2: the fields that the decoder reads make up the word. -/
theorem encodeDecodeRoundTrip : Obligations.EncodeDecodeRoundTrip := by
  unfold Obligations.EncodeDecodeRoundTrip
  exact fun _ _ => encode_of_decode

/-- Settles O5: the word is the command's, whose fields are its operands. -/
theorem operandsAreTheirFields : Obligations.OperandsAreTheirFields := by
  unfold Obligations.OperandsAreTheirFields
  intro w i h
  obtain rfl := encode_of_decode h
  cases i with
  | init | setp | getstr => exact ⟨(aField_formatC _ _ _).symm, (immField_formatC _ _ _).symm⟩
  | getp | loadp | getpn | noteoff => exact (aField_formatC _ _ _).symm
  | noteon | atouch =>
    exact ⟨(aField_formatC _ _ _).symm, (immLowField_formatC_lowImm _ _ _).symm, immHighField_formatC_lowImm _ _ _⟩
  | chprs pressure => exact ⟨(immLowField_formatC_lowImm _ _ _).symm, immHighField_formatC_lowImm _ _ _⟩
  | pbend | render => exact (immField_formatC _ _ _).symm
  | reset | teardown | suspend | resume | getpi => trivial

/-- Settles O6: the decoder evaluated on fixed words (95_test_vectors.md). -/
theorem vectorWordsDecode : Obligations.VectorWordsDecode := by
  unfold Obligations.VectorWordsDecode
  decide

end Sys2Proof
end

section
/-! PROOF. Which words spell a command (30_encoding.md R63, R65): those with a defined opcode and zeros in its reserved
bits, which are those that match a row of the table. -/

namespace Sys2Proof

open Sys2Proof.Claims

theorem opcField_and (v w : Word) : opcField (v &&& w) = opcField v &&& opcField w := BitVec.extractLsb'_and

theorem aField_and (v w : Word) : aField (v &&& w) = aField v &&& aField w := BitVec.extractLsb'_and

theorem immField_and (v w : Word) : immField (v &&& w) = immField v &&& immField w := BitVec.extractLsb'_and

/-! ## The reserved bits by field (R62) -/

section
variable {w : Word}

/-- The bits under a mask outside the opcode are zero exactly when they are so field by field. -/
theorem and_formatC_eq_zero_iff {ma : Byte} {mm : Half} :
    w &&& formatC 0 ma mm = 0 ↔ aField w &&& ma = 0 ∧ immField w &&& mm = 0 := by
  rw [show (0 : Word) = formatC 0 0 0 by decide, eq_comm, formatC_eq_iff, opcField_and, aField_and, immField_and,
    opcField_formatC, aField_formatC, immField_formatC]
  exact and_iff_right BitVec.and_zero

theorem immField_and_high_eq_zero_iff : immField w &&& 0xFF00 = 0 ↔ immHighField w = 0 := by
  constructor
  · intro h
    have hhigh : (immField w &&& 0xFF00).extractLsb' 8 8 = 0 := by rw [h]; rfl
    rw [BitVec.extractLsb'_and, immField, BitVec.extractLsb'_extractLsb'_of_le (by decide)] at hhigh
    exact BitVec.and_allOnes.symm.trans hhigh
  · intro h
    rw [← lowImm_immLowField h, Laws.TableRow.lowImm_and]

theorem byte_and_full (b : Byte) : b &&& 0xFF = b := BitVec.and_allOnes

theorem half_and_full (m : Half) : m &&& 0xFFFF = m := BitVec.and_allOnes

theorem and_a_imm_eq_zero_iff : w &&& 0x00FFFFFF = 0 ↔ aField w = 0 ∧ immField w = 0 := by
  rw [show (0x00FFFFFF : Word) = formatC 0 0xFF 0xFFFF by decide, and_formatC_eq_zero_iff, byte_and_full, half_and_full]

theorem and_imm_eq_zero_iff : w &&& 0x0000FFFF = 0 ↔ immField w = 0 := by
  rw [show (0x0000FFFF : Word) = formatC 0 0 0xFFFF by decide, and_formatC_eq_zero_iff, half_and_full]
  exact and_iff_right BitVec.and_zero

theorem and_a_eq_zero_iff : w &&& 0x00FF0000 = 0 ↔ aField w = 0 := by
  rw [show (0x00FF0000 : Word) = formatC 0 0xFF 0 by decide, and_formatC_eq_zero_iff, byte_and_full]
  exact and_iff_left BitVec.and_zero

theorem and_immHigh_eq_zero_iff : w &&& 0x0000FF00 = 0 ↔ immHighField w = 0 := by
  rw [show (0x0000FF00 : Word) = formatC 0 0 0xFF00 by decide, and_formatC_eq_zero_iff, immField_and_high_eq_zero_iff]
  exact and_iff_right BitVec.and_zero

theorem and_a_immHigh_eq_zero_iff : w &&& 0x00FFFF00 = 0 ↔ aField w = 0 ∧ immHighField w = 0 := by
  rw [show (0x00FFFF00 : Word) = formatC 0 0xFF 0xFF00 by decide, and_formatC_eq_zero_iff, byte_and_full,
    immField_and_high_eq_zero_iff]

end

/-! ## Illegal words (R65) -/

theorem exists_requireZero_eq_error_iff {z : Bool} {i : Instr} :
    (∃ e, requireZero z i = .error e) ↔ ¬ z = true := by
  cases z <;> simp [requireZero]

/-- For a defined opcode, a word is illegal exactly when it has a reserved bit set. -/
theorem illegalWord_iff_of_opcField {w : Word} {opc : Byte} (h : opcField w = opc) (hopc : opc ∈ definedOpcodes) :
    illegalWord w ↔ ¬ w &&& mustBeZero opc = 0 := by
  subst h
  exact or_iff_right (not_not_intro hopc)

/-- Arm by arm, the fields that the decoder requires to be zero are the opcode's reserved bits. -/
theorem exists_decode_eq_error_iff (w : Word) : (∃ e, decode w = .error e) ↔ illegalWord w := by
  unfold decode
  split <;> rename_i hopc
  -- No arm for the opcode.
  case h_18 =>
    have hundefined : opcField w ∉ definedOpcodes := by simp_all [definedOpcodes]
    exact iff_of_true ⟨_, rfl⟩ (.inl hundefined)
  all_goals rw [illegalWord_iff_of_opcField hopc (by decide)]
  -- INIT, SETP and GETSTR reserve nothing; then A and IMM, IMM, IMM's high byte, A, A and IMM's high byte (R62).
  case h_1 | h_6 | h_8 => simp [mustBeZero]
  all_goals rw [exists_requireZero_eq_error_iff, not_congr]
  all_goals simp only [Bool.and_eq_true, beq_iff_eq]
  case h_2 | h_3 | h_4 | h_5 | h_10 => exact and_a_imm_eq_zero_iff.symm
  case h_7 | h_9 | h_11 | h_13 => exact and_imm_eq_zero_iff.symm
  case h_12 | h_16 => exact and_immHigh_eq_zero_iff.symm
  case h_14 | h_17 => exact and_a_eq_zero_iff.symm
  case h_15 => exact and_a_immHigh_eq_zero_iff.symm

/-- Settles O4: the decoder refuses the illegal words, and a step that meets one raises ILLEGAL_COMMAND. -/
theorem illegalWordRaisesIllegalCommand : Obligations.IllegalWordRaisesIllegalCommand := by
  unfold Obligations.IllegalWordRaisesIllegalCommand
  refine ⟨exists_decode_eq_error_iff, fun s w rest hfault hcmd hillegal => ?_⟩
  obtain ⟨e, hdecode⟩ := (exists_decode_eq_error_iff w).mpr hillegal
  exact Machine.step_illegal hfault hcmd hdecode

/-! ## The table's rows (R63) -/

/-- Each row fixes the whole opcode, a defined one, and the opcode's reserved bits, at zero. -/
theorem opcodeTable_row : ∀ r ∈ opcodeTable,
    opcField r.mask = BitVec.allOnes 8 ∧ opcField r.pattern ∈ definedOpcodes ∧
    r.mask &&& mustBeZero (opcField r.pattern) = mustBeZero (opcField r.pattern) ∧
    r.pattern &&& mustBeZero (opcField r.pattern) = 0 := by
  decide

theorem opcodeTable_opcode_injective : ∀ r ∈ opcodeTable, ∀ r' ∈ opcodeTable,
    opcField r.pattern = opcField r'.pattern → r = r' := by
  decide

section
variable {w : Word} {r : OpcodeRow} (hr : r ∈ opcodeTable) (hw : w &&& r.mask = r.pattern)
include hr hw

theorem opcField_of_matches : opcField w = opcField r.pattern := by
  obtain ⟨hmask, -⟩ := opcodeTable_row r hr
  rw [← hw, opcField_and, hmask, BitVec.and_allOnes]

theorem not_illegalWord_of_matches : ¬ illegalWord w := by
  obtain ⟨-, hopc, hmask, hpattern⟩ := opcodeTable_row r hr
  rw [illegalWord_iff_of_opcField (opcField_of_matches hr hw) hopc, not_not, ← hmask, ← BitVec.and_assoc, hw,
    hpattern]

theorem eq_of_matches {r' : OpcodeRow} (hr' : r' ∈ opcodeTable) (hw' : w &&& r'.mask = r'.pattern) : r = r' :=
  opcodeTable_opcode_injective r hr r' hr' ((opcField_of_matches hr hw).symm.trans (opcField_of_matches hr' hw'))

end

open Laws.TableRow in
/-- Every command's word matches the command's own row. -/
theorem tableRow_statement : ∀ i : Instr, Statement i
  | .init c r => init c r
  | .reset => reset
  | .teardown => teardown
  | .suspend => suspend
  | .resume => resume
  | .setp a v => setp a v
  | .getp a => getp a
  | .getstr a v => getstr a v
  | .loadp p => loadp p
  | .getpi => getpi
  | .getpn p => getpn p
  | .noteon n b => noteon n b
  | .noteoff n => noteoff n
  | .pbend b => pbend b
  | .chprs p => chprs p
  | .atouch n p => atouch n p
  | .render n => render n

/-- A command's word matches a row of the command's name. -/
theorem exists_row_of_decode {w : Word} {i : Instr} (h : decode w = .ok i) :
    ∃ r ∈ opcodeTable, r.mnemonic = mnemonic i ∧ w &&& r.mask = r.pattern := by
  obtain rfl := encode_of_decode h
  obtain ⟨r, hrow, hmatch⟩ := (Option.any_eq_true _ _).mp (tableRow_statement i)
  have hname := List.find?_some hrow
  exact ⟨r, List.mem_of_find?_eq_some hrow, beq_iff_eq.mp hname, beq_iff_eq.mp hmatch⟩

/-- Settles O3: a word that matches a row is legal, so it decodes, and the row of its command can only be that row. -/
theorem wordSpellsTheRowItMatches : Obligations.WordSpellsTheRowItMatches := by
  unfold Obligations.WordSpellsTheRowItMatches
  refine ⟨fun _ _ => exists_row_of_decode, fun w r hr hw => ?_,
    fun _ _ hr _ hr' hw hw' => eq_of_matches hr hw hr' hw'⟩
  cases hdecode : decode w with
  | error e => exact absurd ((exists_decode_eq_error_iff w).mp ⟨e, hdecode⟩) (not_illegalWord_of_matches hr hw)
  | ok i =>
    obtain ⟨r', hr', hname, hw'⟩ := exists_row_of_decode hdecode
    exact ⟨i, rfl, by rw [← hname, eq_of_matches hr hw hr' hw']⟩

end Sys2Proof
end

section
/-! PROOF. The assembler (30_encoding.md R68, R69): a line whose operands fit their fields is assembled to commands that
carry the numbers written. -/

namespace Sys2Proof.Machine

open Sys2Proof.Claims

/-! ## Fields and the numbers that fit them -/

theorem fitsUnsigned_eight_iff (n : Int) : fitsUnsigned 8 n = true ↔ 0 ≤ n ∧ n ≤ 255 := by
  rw [fitsUnsigned, Bool.and_eq_true, decide_eq_true_iff, decide_eq_true_iff]; omega

theorem fitsUnsigned_sixteen_iff (n : Int) : fitsUnsigned 16 n = true ↔ 0 ≤ n ∧ n ≤ 65535 := by
  rw [fitsUnsigned, Bool.and_eq_true, decide_eq_true_iff, decide_eq_true_iff]; omega

theorem fitsSigned_sixteen_iff (n : Int) : fitsSigned 16 n = true ↔ -32768 ≤ n ∧ n ≤ 32767 := by
  rw [fitsSigned, Bool.and_eq_true, decide_eq_true_iff, decide_eq_true_iff]; omega

theorem toNat_ofNat_sixteen {n : Nat} (h : n ≤ 65535) : (BitVec.ofNat 16 n).toNat = n :=
  Nat.mod_eq_of_lt (Nat.lt_succ_of_le h)

theorem toNat_ofInt_eight {n : Int} (h : 0 ≤ n ∧ n ≤ 255) : ((BitVec.ofInt 8 n).toNat : Int) = n := by
  rw [BitVec.toNat_ofInt]; omega

theorem toNat_ofInt_sixteen {n : Int} (h : 0 ≤ n ∧ n ≤ 65535) : ((BitVec.ofInt 16 n).toNat : Int) = n := by
  rw [BitVec.toNat_ofInt]; omega

theorem toInt_ofInt_sixteen {n : Int} (h : -32768 ≤ n ∧ n ≤ 32767) : (BitVec.ofInt 16 n).toInt = n :=
  BitVec.toInt_ofInt_eq_self (by decide) h.1 (Int.lt_add_one_of_le h.2)

/-! ## Lines -/

/-- The model's check of a line is the numeric one, field by field. -/
theorem wellFormed_iff_lineFits (line : AsmLine) : line.wellFormed = true ↔ lineFits line := by
  cases line <;>
    simp [AsmLine.wellFormed, lineFits, fitsUnsigned_eight_iff, fitsUnsigned_sixteen_iff, fitsSigned_sixteen_iff,
      and_assoc]

theorem assemble_eq_some_iff {line : AsmLine} {ws : List Word} :
    assemble line = some ws ↔ lineFits line ∧ (lineCommands line).map encode = ws := by
  simp [assemble, wellFormed_iff_lineFits]

/-- A RENDER of any count is one command, or the full ones and the rest (R69). -/
theorem lineSpells_renderCommands {count : Int} (h : 0 ≤ count) :
    lineSpells (renderCommands count.toNat) (.render count) := by
  obtain ⟨n, rfl⟩ := Int.eq_ofNat_of_zero_le h
  rw [lineSpells, Int.toNat_natCast, renderCommands]
  by_cases hn : n ≤ 65535
  · rw [if_pos hn, if_pos (by omega)]
    exact ⟨_, rfl, congrArg Nat.cast (toNat_ofNat_sixteen hn)⟩
  · have hdiv : ((n : Int) / 65535).toNat = n / 65535 := by omega
    have hmod : (n : Int) % 65535 = 0 ↔ n % 65535 = 0 := by omega
    rw [if_neg hn, if_neg (by omega)]
    exact ⟨BitVec.ofNat 16 (n % 65535), by rw [toNat_ofNat_sixteen (by omega)]; omega, by simp only [hdiv, hmod]⟩

/-- The commands of a line whose operands fit are those the line writes. -/
theorem lineSpells_lineCommands {line : AsmLine} (h : lineFits line) : lineSpells (lineCommands line) line := by
  cases line with
  | init rate channels =>
    obtain ⟨hr, hr', hc⟩ := h
    exact ⟨_, _, rfl, toNat_ofInt_eight hc, toNat_ofInt_sixteen ⟨hr, hr'⟩⟩
  | setp index value | getstr index value =>
    obtain ⟨hi, hi', hv⟩ := h
    exact ⟨_, _, rfl, toNat_ofInt_eight ⟨hi, hi'⟩, toInt_ofInt_sixteen hv⟩
  | noteon note velocity | atouch note pressure =>
    obtain ⟨hn, hn', hb⟩ := h
    exact ⟨_, _, rfl, toNat_ofInt_eight ⟨hn, hn'⟩, toNat_ofInt_eight hb⟩
  | getp | loadp | getpn | noteoff | chprs | setpreset => exact ⟨_, rfl, toNat_ofInt_eight h⟩
  | pbend => exact ⟨_, rfl, toNat_ofInt_sixteen h⟩
  | render count => exact lineSpells_renderCommands h
  | reset | teardown | suspend | resume | getpi | noteoffall => rfl

/-- Settles O7: a line that fits is assembled to its commands' words, which decode to the commands. -/
theorem assemblerNeverTruncates : Obligations.AssemblerNeverTruncates := by
  unfold Obligations.AssemblerNeverTruncates
  refine ⟨fun line => ?_, fun line ws h => ?_⟩
  · simp [Option.isSome_iff_exists, assemble_eq_some_iff]
  · obtain ⟨hfits, rfl⟩ := assemble_eq_some_iff.mp h
    exact ⟨lineCommands line, by simp [Function.comp_def, decode_encode], lineSpells_lineCommands hfits⟩

end Sys2Proof.Machine
end

section
/-! PROOF. The loop's checks in their order, and what an accepted command answers (30_encoding.md R64, R66;
60_exceptions.md R250, R253). -/

namespace Sys2Proof.Machine

/-! ## The lifecycle checks (R66) -/

section
variable {i : Instr} {l : Life}

theorem isInit_iff : isInit i = true ↔ ∃ c r, i = .init c r := by
  cases i <;> simp [isInit]

theorem lifecycleFault_init (c : Byte) (r : Half) : lifecycleFault (.init c r) .uninit = none := rfl

theorem lifecycleFault_of_not_init (h : ∀ c r, i ≠ .init c r) :
    lifecycleFault i .uninit = some .notInitialised := by
  have hinit : ¬ isInit i = true := fun hi => by
    obtain ⟨c, r, rfl⟩ := isInit_iff.mp hi
    exact h c r rfl
  rw [lifecycleFault_uninit, if_neg hinit]

theorem lifecycleFault_of_accepted (h : l = .ready ∨ l = .uninit ∧ ∃ c r, i = .init c r) :
    lifecycleFault i l = none := by
  obtain rfl | ⟨rfl, c, r, rfl⟩ := h
  · exact lifecycleFault_ready i
  · exact lifecycleFault_init c r

theorem lifecycleFault_of_refused (h : l = .failed ∨ l = .uninit ∧ ∀ c r, i ≠ .init c r) :
    ∃ code, lifecycleFault i l = some code := by
  obtain rfl | ⟨rfl, hinit⟩ := h
  · exact ⟨_, lifecycleFault_failed i⟩
  · exact ⟨_, lifecycleFault_of_not_init hinit⟩

end

/-- A step that decodes a command which the lifecycle refuses raises the lifecycle's fault with the command's word. -/
theorem step_refused {s : State} {w : Word} {rest : List Word} {i : Instr} {code : FaultCode} (hfault : s.fault = none)
    (hcmd : s.cmd = w :: rest) (hdecode : decode w = .ok i) (h : lifecycleFault i s.life = some code) :
    step s = .next { s with cmd := rest, fault := some code, faultWord := w } := by
  obtain rfl := encode_of_decode hdecode
  rw [step_runs hfault hcmd hdecode, exec_of_some (s := { s with cmd := rest }) h]

/-- Settles O8: the loop hands the decoded command on. -/
theorem stepRunsTheDecodedCommand : Obligations.StepRunsTheDecodedCommand := by
  unfold Obligations.StepRunsTheDecodedCommand
  exact fun _ _ _ _ => step_runs

/-- Settles O9: what a step does in each case, the lifecycle's checks last. -/
theorem loopChecksInOrder : Obligations.LoopChecksInOrder := by
  unfold Obligations.LoopChecksInOrder
  refine ⟨fun _ _ => step_stuck, fun _ => step_waits, fun s w rest hfault hcmd =>
    ⟨fun _ => step_illegal hfault hcmd, fun i hdecode hfailed => ?_, fun i hdecode huninit hinit => ?_,
      fun i hdecode hlife => ?_⟩⟩
  · exact step_refused hfault hcmd hdecode (by rw [hfailed]; exact lifecycleFault_failed i)
  · exact step_refused hfault hcmd hdecode (by rw [huninit]; exact lifecycleFault_of_not_init hinit)
  · have hruns := step_runs hfault hcmd hdecode
    have hexec := exec_of_none (s := { s with cmd := rest }) (lifecycleFault_of_accepted hlife)
    obtain ⟨hkept, -⟩ := commandEffect_fault Arith.exact drawSignal i { s.toBlock with cmd := rest }
    exact ⟨hruns, _, hruns.trans hexec, hkept.trans hfault⟩

end Sys2Proof.Machine
end

section
/-! PROOF. The response words (30_encoding.md R64): one for each of the five answering commands, none for the others. -/

namespace Sys2Proof.Machine

/-! ## The words by number -/

/-- The status word of 47_lifecycle.md R231. -/
theorem initStatus_eq (c : Byte) (r : Half) :
    initStatus c r = if r.toNat ≠ 48000 then 1 else if c.toNat ≠ 2 then 2 else 0 := by
  simp only [initStatus, initRate, initChannels, ne_eq, ← BitVec.toNat_inj]
  rfl

/-- The identifier of 45_parameters_presets.md R183. -/
theorem paramStringId_eq (a : Byte) (x : Half) :
    paramStringId a x =
      if a.toNat = 16 then (if 0 ≤ x.toInt ∧ x.toInt ≤ 4 then BitVec.ofInt 32 x.toInt else 0xFF)
      else if a.toNat ≤ 21 then 0xFE else 0xFF := by
  simp only [paramStringId, ← BitVec.toNat_inj, BitVec.le_def]
  rfl

/-- The identifier of 45_parameters_presets.md R186. -/
theorem presetNameId_eq (p : Byte) :
    presetNameId p = if p.toNat ≤ 4 then BitVec.ofNat 32 p.toNat else 0xFF := by
  simp only [presetNameId, BitVec.le_def, BitVec.ofNat_toNat]
  rfl

theorem signExtend_getParam {E S : Type} (a : Byte) (s : Block E S) :
    (getParam a s).signExtend 32 = if h : a.toNat < 22 then BitVec.ofInt 32 (s.params[a.toNat]).toInt else 0 := by
  by_cases h : a.toNat < 22
  · rw [getParam_known s h, dif_pos h, BitVec.signExtend]
  · rw [getParam_unknown s h, dif_neg h]
    rfl

theorem initEffect_rsp {E S : Type} (A : Arith E S) (c : Byte) (r : Half) (s : Block E S) :
    (initEffect A c r s).rsp = s.rsp ++ [initStatus c r] := by
  obtain ⟨hstatus, he⟩ | ⟨-, he⟩ := initEffect_cases A c r s
  · rw [he, hstatus, respond_rsp, construct_rsp]
  · rw [he, respond_rsp]

/-- Settles O28: a refused command keeps RSP; an accepted one appends the word of its own effect, if any. -/
theorem oneResponsePerAnsweringCommand : Obligations.OneResponsePerAnsweringCommand := by
  unfold Obligations.OneResponsePerAnsweringCommand
  intro i s
  obtain ⟨haccepted, he⟩ | ⟨code, hrefused, he⟩ := exec_cases i s
  · refine ⟨_, he, fun h => ?_, fun _ => ?_⟩
    · obtain ⟨code, hcode⟩ := lifecycleFault_of_refused h
      rw [haccepted] at hcode
      cases hcode
    · cases i with
      | init c r => exact (initEffect_rsp _ c r _).trans (by rw [initStatus_eq])
      | getp a => exact congrArg (s.rsp ++ [·]) (signExtend_getParam a s.toBlock)
      | getstr a x => exact congrArg (s.rsp ++ [·]) (paramStringId_eq a x)
      | getpi => exact congrArg (s.rsp ++ [·]) (BitVec.ofNat_toNat 32 s.presetIndex).symm
      | getpn p => exact congrArg (s.rsp ++ [·]) (presetNameId_eq p)
      | reset | teardown | suspend | resume | setp | loadp | noteon | noteoff | pbend | chprs | atouch | render =>
        simp [stateEffect, commandEffect]
  · refine ⟨_, he, fun _ => rfl, fun h => ?_⟩
    rw [lifecycleFault_of_accepted h] at hrefused
    cases hrefused

end Sys2Proof.Machine
end

section
/-! PROOF. RENDERs one after the other (30_encoding.md R69, 44_output_render.md R169): together they run as many frames
as their counts add up to, and the split of a large count keeps the sum. -/

namespace Sys2Proof.Machine

open Sys2Proof.Claims

/-- Frames in sequence are the frame function iterated. -/
theorem frames_eq_iterate {E S : Type} (A : Arith E S) (noise : Nat → S) (P : ParamSet) :
    ∀ (n : Nat) (g : Engine E S), frames A noise P n g = (frame A noise P)^[n] g
  | 0, _ => rfl
  | n + 1, g => by rw [frames_succ, frames_eq_iterate A noise P n, Function.iterate_succ_apply]

theorem exec_render_ready {s : State} (h : s.life = .ready) (count : Half) :
    exec (.render count) s =
      .next (s.withEngine ((frame Arith.exact drawSignal s.params)^[count.toNat] s.engine)) := by
  rw [exec_ready h, ← frames_eq_iterate]
  rfl

theorem runCommands_renders (counts : List Half) (s : State) (h : s.life = .ready) :
    runCommands (counts.map .render) s =
      .next (s.withEngine ((frame Arith.exact drawSignal s.params)^[(counts.map BitVec.toNat).sum] s.engine)) := by
  induction counts generalizing s with
  | nil => rfl
  | cons count counts ih =>
    rw [List.map_cons, runCommands, exec_render_ready h]
    refine (ih (s.withEngine _) h).trans ?_
    rw [List.map_cons, List.sum_cons, Nat.add_comm, Function.iterate_add_apply]
    rfl

/-- The split is into RENDERs whose counts add up to the whole. -/
theorem renderCommands_eq_map (n : Nat) :
    ∃ counts : List Half, renderCommands n = counts.map .render ∧ (counts.map BitVec.toNat).sum = n := by
  unfold renderCommands
  have hdiv := Nat.div_add_mod' n 65535
  split_ifs with hsmall hrest
  · exact ⟨[BitVec.ofNat 16 n], rfl, toNat_ofNat_sixteen hsmall⟩
  · refine ⟨List.replicate (n / 65535) 65535, by simp, ?_⟩
    rw [hrest] at hdiv
    rw [List.map_replicate, List.sum_replicate]
    exact hdiv
  · refine ⟨List.replicate (n / 65535) 65535 ++ [BitVec.ofNat 16 (n % 65535)], by simp, ?_⟩
    rw [List.map_append, List.sum_append, List.map_replicate, List.sum_replicate, List.map_singleton,
      List.sum_singleton, toNat_ofNat_sixteen (by omega)]
    exact hdiv

/-- Settles O51: the split's counts add up to `n`. -/
theorem splitRenderRunsTheSameFrames : Obligations.SplitRenderRunsTheSameFrames := by
  unfold Obligations.SplitRenderRunsTheSameFrames
  intro n s hready
  obtain ⟨counts, hsplit, hsum⟩ := renderCommands_eq_map n
  rw [hsplit, runCommands_renders counts s hready, hsum]

end Sys2Proof.Machine
end

section
/-! PROOF. Stage 1 of one frame in exact arithmetic (40_envelope.md R90 to R96): the trackers and the amplitude machine
as formulas on the raw values. -/

namespace Sys2Proof.Machine

open Sys2Proof.Claims

/-! ## The exact realisation's operations on control values -/

theorem real_exact (q : ℚ) : Arith.exact.real q = q := rfl

theorem add_exact (a b : ℚ) : Arith.exact.add a b = a + b := rfl

theorem sub_exact (a b : ℚ) : Arith.exact.sub a b = a - b := rfl

theorem clamp01_exact (a : ℚ) : Arith.exact.clamp01 a = clamped a := rfl

theorem same_exact_iff (a b : ℚ) : Arith.exact.same a b = true ↔ a = b := decide_eq_true_iff

theorem atMost_exact_iff (a b : ℚ) : Arith.exact.atMost a b = true ↔ a ≤ b := decide_eq_true_iff

theorem rate_exact (m : ℚ) : rate Arith.exact m = rateOf m := rfl

/-! ## The stages of the scheduler -/

theorem track_exact (e m : ℚ) : track Arith.exact e m = if m = 0 then 0 else clamped (e - rateOf m) := by
  simp only [track, same_exact_iff, real_exact, clamp01_exact, sub_exact, rate_exact]

section
variable (P : ParamSet) (v : Voice)

/-- Attack's pseudocode (R93). -/
theorem attackStep_exact :
    ((attackStep Arith.exact P v).ampEnv, (attackStep Arith.exact P v).envPhase) =
      if (rawInt P .attack : ℚ) = 0 then (1, .decay)
      else if 1 ≤ v.ampEnv + rateOf (rawInt P .attack) then (1, .decay)
      else (clamped (v.ampEnv + rateOf (rawInt P .attack)), v.envPhase) := by
  simp only [attackStep, ms_exact, same_exact_iff, atMost_exact_iff, real_exact, add_exact, rate_exact, clamp01_exact]
  split_ifs <;> rfl

/-- The pseudocode that Decay and Release share (R95, R96). -/
theorem fallStep_exact :
    ((fallStep Arith.exact P v).ampEnv, (fallStep Arith.exact P v).envPhase) =
      if (rawInt P .release : ℚ) = 0 then (0, .idle)
      else if v.ampEnv - rateOf (rawInt P .release) ≤ 0 then (0, .idle)
      else (clamped (v.ampEnv - rateOf (rawInt P .release)), v.envPhase) := by
  simp only [fallStep, ms_exact, same_exact_iff, atMost_exact_iff, real_exact, sub_exact, rate_exact, clamp01_exact]
  split_ifs <;> rfl

variable {v}

theorem envelopeStage_attack (h : v.envPhase = .attack) :
    ((envelopeStage Arith.exact P v).ampEnv, (envelopeStage Arith.exact P v).envPhase) =
      if (rawInt P .attack : ℚ) = 0 then (1, .decay)
      else if 1 ≤ v.ampEnv + rateOf (rawInt P .attack) then (1, .decay)
      else (clamped (v.ampEnv + rateOf (rawInt P .attack)), .attack) := by
  have hstage : envelopeStage Arith.exact P v = attackStep Arith.exact P (decayTrackers Arith.exact P v) := by
    simp only [envelopeStage, h]
  rw [hstage, attackStep_exact, decayTrackers_envPhase, h]
  rfl

theorem envelopeStage_fall (h : v.envPhase = .decay ∨ v.envPhase = .release) :
    ((envelopeStage Arith.exact P v).ampEnv, (envelopeStage Arith.exact P v).envPhase) =
      if (rawInt P .release : ℚ) = 0 then (0, .idle)
      else if v.ampEnv - rateOf (rawInt P .release) ≤ 0 then (0, .idle)
      else (clamped (v.ampEnv - rateOf (rawInt P .release)), v.envPhase) := by
  have hstage : envelopeStage Arith.exact P v = fallStep Arith.exact P (decayTrackers Arith.exact P v) := by
    obtain h | h := h <;> simp only [envelopeStage, h, decayStep, releaseStep]
  rw [hstage, fallStep_exact]
  rfl

end

/-! ## One frame of RENDER -/

theorem exec_render_one {s : State} (h : s.life = .ready) :
    exec (.render 1) s = .next (s.withEngine (frame Arith.exact drawSignal s.params s.engine)) :=
  exec_render_ready h 1

/-- Settles O31: a frame's trackers are those of stage 1. -/
theorem trackersDecayLinearly : Obligations.TrackersDecayLinearly := by
  unfold Obligations.TrackersDecayLinearly
  intro s hready
  refine ⟨_, exec_render_one hready, fun hidle => ?_, fun hactive => ?_⟩
  · have hstage : envelopeStage Arith.exact s.params s.voice = s.voice := envelopeStage_idle _ _ _ hidle
    simp [hstage]
  · obtain ⟨hpitch, hosc2, hclick⟩ := envelopeStage_trackers Arith.exact s.params s.voice hactive
    rw [ms_exact, track_exact] at hpitch hosc2 hclick
    exact ⟨hpitch, hosc2, hclick⟩

/-- Settles O32: a frame's amplitude and phase are those of stage 1, which is Attack's. -/
theorem attackFrame : Obligations.AttackFrame := by
  unfold Obligations.AttackFrame
  exact fun s hready hattack => ⟨_, exec_render_one hready, envelopeStage_attack s.params hattack⟩

/-- Settles O33: a frame's amplitude and phase are those of stage 1, the same formula of RELEASE in both phases. -/
theorem decayAndReleaseFrame : Obligations.DecayAndReleaseFrame := by
  unfold Obligations.DecayAndReleaseFrame
  exact fun s hready hfall => ⟨_, exec_render_one hready, envelopeStage_fall s.params hfall⟩

end Sys2Proof.Machine
end

section
/-! PROOF. Every transition of `env_phase` (40_envelope.md R98), command by command. -/

namespace Sys2Proof.Machine

open Sys2Proof.Claims

/-- INIT succeeds for one pair of operands (47_lifecycle.md R230). -/
theorem initStatus_eq_zero_iff (channels : Byte) (rate : Half) :
    initStatus channels rate = 0 ↔ channels = 2 ∧ rate = 48000 := by
  unfold initStatus
  split_ifs with hrate hchannels
  · exact iff_of_false (by decide) fun h => hrate h.2
  · exact iff_of_false (by decide) fun h => hchannels h.1
  · exact iff_of_true rfl ⟨not_not.mp hchannels, not_not.mp hrate⟩

/-- NOTEOFF's match (46_note_events.md R212). -/
theorem noteMatches_iff (note current : Byte) : noteMatches note current = true ↔ note = current ∨ note = 255 := by
  simp [noteMatches, noteAll]

theorem decay_or_release {p : EnvPhase} (hattack : p ≠ .attack) (hidle : p ≠ .idle) : p = .decay ∨ p = .release := by
  cases p <;> simp_all

/-- A frame's transition, with its cause (R93, R95, R96). -/
theorem envelopeStage_transition (P : ParamSet) (v : Voice) :
    (envelopeStage Arith.exact P v).envPhase = v.envPhase ∨
    (v.envPhase = .attack ∧ (envelopeStage Arith.exact P v).envPhase = .decay ∧
      ((rawInt P .attack : ℚ) = 0 ∨ 1 ≤ v.ampEnv + rateOf (rawInt P .attack))) ∨
    ((v.envPhase = .decay ∨ v.envPhase = .release) ∧ (envelopeStage Arith.exact P v).envPhase = .idle ∧
      ((rawInt P .release : ℚ) = 0 ∨ v.ampEnv - rateOf (rawInt P .release) ≤ 0)) := by
  by_cases hattack : v.envPhase = .attack
  · have hphase := congrArg Prod.snd (envelopeStage_attack P hattack)
    split_ifs at hphase with hzero hfull
    · exact .inr (.inl ⟨hattack, hphase, .inl hzero⟩)
    · exact .inr (.inl ⟨hattack, hphase, .inr hfull⟩)
    · exact .inl (hphase.trans hattack.symm)
  · by_cases hidle : v.envPhase = .idle
    · exact .inl (by rw [envelopeStage_idle _ _ _ hidle])
    · have hfall := decay_or_release hattack hidle
      have hphase := congrArg Prod.snd (envelopeStage_fall P hfall)
      split_ifs at hphase with hzero hempty
      · exact .inr (.inr ⟨hfall, hphase, .inl hzero⟩)
      · exact .inr (.inr ⟨hfall, hphase, .inr hempty⟩)
      · exact .inl hphase

/-- Settles O30: NOTEON, NOTEOFF, RESET, INIT and a frame write the phase as R98 says, the other commands do not. -/
theorem envelopePhaseTransitions : Obligations.EnvelopePhaseTransitions := by
  unfold Obligations.EnvelopePhaseTransitions
  intro i s hready hone
  refine ⟨stateEffect i s, exec_ready hready, ?_⟩
  cases i with
  | init channels rate =>
    obtain ⟨hstatus, he⟩ | ⟨-, he⟩ := initEffect_cases Arith.exact channels rate s.toBlock
    · obtain ⟨rfl, rfl⟩ := (initStatus_eq_zero_iff channels rate).mp hstatus
      exact .inr (.inr (.inr (.inr (.inr ⟨rfl, .inr rfl⟩))))
    · exact .inl (by simp [stateEffect, commandEffect, he])
  | reset => exact .inr (.inr (.inr (.inr (.inr ⟨rfl, .inl rfl⟩))))
  | noteon note velocity => exact .inr (.inl ⟨rfl, note, velocity, rfl⟩)
  | noteoff note =>
    obtain ⟨hmatch, hreleasable, he⟩ | he := releaseNote_cases s.toBlock note
    · refine .inr (.inr (.inr (.inr (.inl ⟨(releasable_iff _).mp hreleasable, ?_, note, rfl,
        (noteMatches_iff _ _).mp hmatch⟩))))
      simp [stateEffect, commandEffect, he]
    · exact .inl (by simp [stateEffect, commandEffect, he])
  | render n =>
    have hcount : n = 0 ∨ n = 1 := by
      have := hone n rfl
      bv_omega
    obtain rfl | rfl := hcount
    · exact .inl rfl
    · obtain hkept | ⟨hattack, hdecay, hcause⟩ | ⟨hfall, hidle, hcause⟩ := envelopeStage_transition s.params s.voice
      · exact .inl hkept
      · exact .inr (.inr (.inl ⟨hattack, hdecay, rfl, hcause⟩))
      · exact .inr (.inr (.inr (.inl ⟨hfall, hidle, rfl, hcause⟩)))
  | teardown | suspend | resume | setp | getp | getstr | loadp | getpi | getpn | pbend | chprs | atouch =>
    exact .inl (by simp [stateEffect, commandEffect])

end Sys2Proof.Machine
end

section
/-! PROOF. Frames in Idle (40_envelope.md R97): they keep the envelopes and are silent, since the sample is a multiple
of the amplitude (44_output_render.md R165). -/

namespace Sys2Proof.Machine

/-- A sample pair of value 0 for every noise stream. -/
def SilentFrame (f : StereoFrame Signal) : Prop := ∀ noise : Nat → ℝ, f.left.value noise = 0 ∧ f.right.value noise = 0

/-- An output sample at amplitude 0 has the value 0, whatever the filter gives (R165). -/
theorem value_outputSample_of_silent (noise : Nat → ℝ) {v : Voice} (filtered : Signal) (h : v.ampEnv = 0) :
    (outputSample Arith.exact v filtered).value noise = 0 := by
  simp [outputSample, Arith.exact, h]

/-- A frame that ends at amplitude 0 appends a silent pair. -/
theorem exists_frame_out_silent (P : ParamSet) {g : Engine ℚ Signal}
    (h : (envelopeStage Arith.exact P g.voice).ampEnv = 0) :
    ∃ f, (frame Arith.exact drawSignal P g).out = g.out ++ [f] ∧ SilentFrame f :=
  ⟨_, rfl, fun noise => ⟨value_outputSample_of_silent noise _ h, value_outputSample_of_silent noise _ h⟩⟩

/-- What `g` has become of `s` by frames in Idle: the envelopes of `s`, and silent pairs after its OUT. -/
structure IdleSince (s g : Engine ℚ Signal) : Prop where
  envPhase : g.voice.envPhase = .idle
  ampEnv : g.voice.ampEnv = 0
  pitchEnv : g.voice.pitchEnv = s.voice.pitchEnv
  osc2Env : g.voice.osc2Env = s.voice.osc2Env
  clickEnv : g.voice.clickEnv = s.voice.clickEnv
  out : ∃ fs, g.out = s.out ++ fs ∧ ∀ f ∈ fs, SilentFrame f

theorem IdleSince.refl {s : Engine ℚ Signal} (hidle : s.voice.envPhase = .idle) (hamp : s.voice.ampEnv = 0) :
    IdleSince s s :=
  ⟨hidle, hamp, rfl, rfl, rfl, [], (List.append_nil _).symm, fun _ hf => nomatch hf⟩

theorem idleSince_frame (P : ParamSet) {s g : Engine ℚ Signal} (h : IdleSince s g) :
    IdleSince s (frame Arith.exact drawSignal P g) := by
  have hstage : envelopeStage Arith.exact P g.voice = g.voice := envelopeStage_idle _ _ _ h.envPhase
  obtain ⟨f, hf, hsilent⟩ := exists_frame_out_silent P (hstage ▸ h.ampEnv)
  obtain ⟨fs, hfs, hall⟩ := h.out
  exact
    { envPhase := by rw [frame_envPhase, hstage, h.envPhase]
      ampEnv := by rw [frame_ampEnv, hstage, h.ampEnv]
      pitchEnv := by rw [frame_pitchEnv, hstage, h.pitchEnv]
      osc2Env := by rw [frame_osc2Env, hstage, h.osc2Env]
      clickEnv := by rw [frame_clickEnv, hstage, h.clickEnv]
      out := ⟨fs ++ [f], by rw [hf, hfs, List.append_assoc], List.forall_mem_append.mpr
        ⟨hall, List.forall_mem_singleton.mpr hsilent⟩⟩ }

theorem idleSince_frames (P : ParamSet) (n : Nat) {s : Engine ℚ Signal} (hidle : s.voice.envPhase = .idle)
    (hamp : s.voice.ampEnv = 0) : IdleSince s (frames Arith.exact drawSignal P n s) :=
  frames_induction Arith.exact drawSignal P (I := IdleSince s) (fun _ => idleSince_frame P) n s (.refl hidle hamp)

/-- Settles O34: the end state is idle since the start, and its new frames are those of the RENDER. -/
theorem idleFramesAreSilent : Obligations.IdleFramesAreSilent := by
  unfold Obligations.IdleFramesAreSilent
  intro s n hready hidle hamp
  obtain ⟨t, fs, he, hout, hlen⟩ := exists_exec_render_out (n := n) hready
  have hsince : IdleSince s.engine t.engine := by
    obtain rfl := Host.Outcome.next.inj ((exec_ready hready).symm.trans he)
    exact idleSince_frames s.params n.toNat hidle hamp
  obtain ⟨fs', hout', hsilent⟩ := hsince.out
  obtain rfl : fs = fs' := List.append_cancel_left (hout.symm.trans hout')
  exact ⟨t, fs, he, hsince.envPhase, hsince.ampEnv, hsince.pitchEnv, hsince.osc2Env, hsince.clickEnv, hout, hlen,
    hsilent⟩

end Sys2Proof.Machine
end

section
/-! PROOF. The shapes of the envelopes over any number of frames (40_envelope.md R100, R101): with a positive time, the
amplitude and the trackers are linear in the number of frames until they reach their bound. -/

namespace Sys2Proof.Machine

open Sys2Proof.Claims

/-! ## Rates and clamps (R90) -/

theorem rateOf_pos {m : ℚ} (h : 0 < m) : 0 < rateOf m := by
  unfold rateOf
  positivity

/-- `rate(m)` is one part in `48·m`. -/
theorem mul_rateOf (k m : ℚ) : k * rateOf m = k / (48 * m) := by
  rw [rateOf, show m * 48000 = 1000 * (48 * m) by ring, ← div_div, div_self (by norm_num), mul_one_div]

theorem div_lt_one_iff_lt {k m : ℚ} (h : 0 < m) : k / (48 * m) < 1 ↔ k < 48 * m := div_lt_one (by positivity)

theorem clamped_of_mem {q : ℚ} (h0 : 0 ≤ q) (h1 : q ≤ 1) : clamped q = q := by
  rw [clamped, max_eq_right h0, min_eq_right h1]

theorem clamped_of_nonpos {q : ℚ} (h : q ≤ 0) : clamped q = 0 := by
  rw [clamped, max_eq_left h, min_eq_right zero_le_one]

theorem clamped_of_one_le {q : ℚ} (h : 1 ≤ q) : clamped q = 1 := by
  rw [clamped, max_eq_right (zero_le_one.trans h), min_eq_left h]

/-- One more decrement `y` of a value that has fallen by `x` from `a`. -/
theorem clamped_fall {a x y : ℚ} (ha : a ≤ 1) (hx : 0 ≤ x) (hy : 0 ≤ y) :
    clamped (max 0 (a - x) - y) = max 0 (a - (x + y)) := by
  obtain h | h := le_total (a - (x + y)) 0
  · rw [max_eq_left h, clamped_of_nonpos]
    rw [sub_nonpos, max_le_iff]
    exact ⟨hy, by linarith⟩
  · rw [max_eq_right h, max_eq_right (by linarith), clamped_of_mem] <;> linarith

theorem max_sub_nonpos_iff {b y : ℚ} (hy : 0 < y) : max 0 b - y ≤ 0 ↔ b ≤ y := by
  rw [sub_nonpos, max_le_iff, and_iff_right hy.le]

/-! ## One frame with a time that is not 0 (R93, R95, R96) -/

section
variable {P : ParamSet} {v : Voice}

theorem envelopeStage_attack_of_ne_zero (h : v.envPhase = .attack) (hm : (rawInt P .attack : ℚ) ≠ 0) :
    (envelopeStage Arith.exact P v).ampEnv = clamped (v.ampEnv + rateOf (rawInt P .attack)) ∧
    (envelopeStage Arith.exact P v).envPhase =
      if 1 ≤ v.ampEnv + rateOf (rawInt P .attack) then .decay else .attack := by
  have hstage := envelopeStage_attack P h
  rw [if_neg hm] at hstage
  split_ifs at hstage ⊢ with hfull
  · rw [clamped_of_one_le hfull]
    exact Prod.mk.inj hstage
  · exact Prod.mk.inj hstage

theorem envelopeStage_fall_of_ne_zero (h : v.envPhase = .decay ∨ v.envPhase = .release)
    (hm : (rawInt P .release : ℚ) ≠ 0) :
    (envelopeStage Arith.exact P v).ampEnv = clamped (v.ampEnv - rateOf (rawInt P .release)) ∧
    (envelopeStage Arith.exact P v).envPhase =
      if v.ampEnv - rateOf (rawInt P .release) ≤ 0 then .idle else v.envPhase := by
  have hstage := envelopeStage_fall P h
  rw [if_neg hm] at hstage
  split_ifs at hstage ⊢ with hempty
  · rw [clamped_of_nonpos hempty]
    exact Prod.mk.inj hstage
  · exact Prod.mk.inj hstage

end

/-! ## Frames in sequence -/

section
variable {P : ParamSet} {g : Engine ℚ Signal}

/-- The Attack ramp from 0 (R100). -/
theorem attack_frames (hphase : g.voice.envPhase = .attack) (hamp : g.voice.ampEnv = 0)
    (hm : (0 : ℚ) < rawInt P .attack) (k : Nat) (hk : k * rateOf (rawInt P .attack) ≤ 1) :
    ((frame Arith.exact drawSignal P)^[k] g).voice.ampEnv = k * rateOf (rawInt P .attack) ∧
    ((frame Arith.exact drawSignal P)^[k] g).voice.envPhase =
      if k * rateOf (rawInt P .attack) < 1 then .attack else .decay := by
  have hrate := rateOf_pos hm
  induction k with
  | zero => simp [hphase, hamp]
  | succ k ih =>
    rw [Nat.cast_succ, add_one_mul] at hk ⊢
    have hnonneg : 0 ≤ k * rateOf (rawInt P .attack) := by positivity
    have hbelow : k * rateOf (rawInt P .attack) < 1 := by linarith
    obtain ⟨ihamp, ihphase⟩ := ih hbelow.le
    rw [if_pos hbelow] at ihphase
    obtain ⟨hamp', hphase'⟩ := envelopeStage_attack_of_ne_zero ihphase hm.ne'
    rw [ihamp] at hamp' hphase'
    rw [Function.iterate_succ_apply', frame_ampEnv, frame_envPhase, hamp', hphase']
    exact ⟨clamped_of_mem (by positivity) hk, by simp only [← not_lt, ite_not]⟩

/-- The fall of Decay or Release from any value in [0, 1], and Idle after it (R100, R101). -/
theorem fall_frames (hphase : g.voice.envPhase = .decay ∨ g.voice.envPhase = .release)
    (hamp0 : 0 ≤ g.voice.ampEnv) (hamp1 : g.voice.ampEnv ≤ 1) (hm : (0 : ℚ) < rawInt P .release) (k : Nat) :
    ((frame Arith.exact drawSignal P)^[k] g).voice.ampEnv =
      max 0 (g.voice.ampEnv - k * rateOf (rawInt P .release)) ∧
    ((frame Arith.exact drawSignal P)^[k] g).voice.envPhase =
      if k = 0 ∨ k * rateOf (rawInt P .release) < g.voice.ampEnv then g.voice.envPhase else .idle := by
  have hrate := rateOf_pos hm
  induction k with
  | zero => simp [hamp0]
  | succ k ih =>
    obtain ⟨ihamp, ihphase⟩ := ih
    have hnonneg : 0 ≤ k * rateOf (rawInt P .release) := by positivity
    rw [Nat.cast_succ, add_one_mul, Function.iterate_succ_apply', frame_ampEnv, frame_envPhase]
    split_ifs at ihphase with hfalling
    · obtain ⟨hamp', hphase'⟩ := envelopeStage_fall_of_ne_zero (ihphase ▸ hphase) hm.ne'
      rw [ihamp] at hamp' hphase'
      rw [hamp', hphase', clamped_fall hamp1 hnonneg hrate.le, ihphase]
      refine ⟨rfl, ?_⟩
      simp only [max_sub_nonpos_iff hrate, ← not_lt, ite_not, lt_sub_iff_add_lt', Nat.succ_ne_zero, false_or]
    · rw [envelopeStage_idle _ _ _ ihphase, ihamp, ihphase]
      have hdone : g.voice.ampEnv ≤ k * rateOf (rawInt P .release) := not_lt.mp fun h => hfalling (.inr h)
      refine ⟨?_, ?_⟩
      · rw [max_eq_left (by linarith), max_eq_left (by linarith)]
      · rw [if_neg]
        rintro (h | h)
        · exact Nat.succ_ne_zero k h
        · linarith

/-- A tracker's fall from 1 in frames that do not start in Idle (R92, R100); `tracker` is one of the three. -/
theorem tracker_frames (tracker : Voice → ℚ) (p : Param)
    (htracker : ∀ g : Engine ℚ Signal, g.voice.envPhase ≠ .idle →
      tracker (frame Arith.exact drawSignal P g).voice = track Arith.exact (tracker g.voice) (ms Arith.exact P p))
    (hone : tracker g.voice = 1) (hm : (0 : ℚ) < rawInt P p) (k : Nat)
    (hactive : ((frame Arith.exact drawSignal P)^[k] g).voice.envPhase ≠ .idle) :
    tracker ((frame Arith.exact drawSignal P)^[k] g).voice = max 0 (1 - k / (48 * (rawInt P p : ℚ))) := by
  have hrate := rateOf_pos hm
  rw [← mul_rateOf]
  induction k with
  | zero => simp [hone]
  | succ k ih =>
    rw [Function.iterate_succ_apply'] at hactive ⊢
    have hbefore : ((frame Arith.exact drawSignal P)^[k] g).voice.envPhase ≠ .idle := fun hidle =>
      hactive (by rw [frame_envPhase, envelopeStage_idle _ _ _ hidle, hidle])
    rw [htracker _ hbefore, ih hbefore, ms_exact, track_exact, if_neg hm.ne',
      clamped_fall (le_refl 1) (by positivity) hrate.le, Nat.cast_succ, add_one_mul]

end

/-- Settles O35: the split RENDER runs `k` frames in sequence, in which the envelopes are ramps. -/
theorem envelopeShapes : Obligations.EnvelopeShapes := by
  unfold Obligations.EnvelopeShapes
  intro s k hready
  refine ⟨_, splitRenderRunsTheSameFrames k s hready, fun hphase hamp hm hk => ?_, fun hphase hamp hm hk => ?_,
    fun hactive => ⟨fun hone hm => ?_, fun hone hm => ?_, fun hone hm => ?_⟩⟩
  · have hk' : k * rateOf (raw s .attack) ≤ 1 := by rwa [mul_rateOf, div_le_one (by positivity)]
    obtain ⟨hamp', hphase'⟩ := attack_frames (g := s.engine) hphase hamp hm k hk'
    rw [mul_rateOf] at hamp' hphase'
    exact ⟨hamp', hphase'.trans (if_congr (div_lt_one_iff_lt hm) rfl rfl)⟩
  · have hk' : k / (48 * raw s .release) ≤ 1 := by rwa [div_le_one (by positivity)]
    obtain ⟨hamp', hphase'⟩ :=
      fall_frames (g := s.engine) (.inl hphase) (zero_le_one.trans hamp.ge) hamp.le hm k
    rw [mul_rateOf, Block.engine_voice, hamp] at hamp' hphase'
    refine ⟨hamp'.trans (max_eq_right (sub_nonneg.mpr hk')), hphase'.trans (if_congr ?_ hphase rfl)⟩
    refine (or_iff_right_of_imp ?_).trans (div_lt_one_iff_lt hm)
    rintro rfl
    simp
  · exact tracker_frames (·.pitchEnv) .decay (fun _ h => (envelopeStage_trackers _ _ _ h).1) hone hm k hactive
  · exact tracker_frames (·.osc2Env) .osc2Decay (fun _ h => (envelopeStage_trackers _ _ _ h).2.1) hone hm k hactive
  · exact tracker_frames (·.clickEnv) .clickDecay (fun _ h => (envelopeStage_trackers _ _ _ h).2.2) hone hm k hactive

/-- A matching NOTEOFF in Attack or Decay writes the phase alone (46_note_events.md R213). -/
theorem exec_noteoff_of_matches {note : Byte} {s : State} (hready : s.life = .ready)
    (hnote : note = s.voice.currentNote ∨ note = 255)
    (hphase : s.voice.envPhase = .attack ∨ s.voice.envPhase = .decay) :
    exec (.noteoff note) s = .next { s with voice := { s.voice with envPhase := .release } } := by
  rw [exec_ready hready, stateEffect, commandEffect, releaseNote, (noteMatches_iff note _).mpr hnote,
    (releasable_iff _).mpr hphase]
  rfl

/-- Settles O36: the NOTEOFF moves to Release, and the split RENDER runs `j` frames of its fall. -/
theorem releaseFallsToIdle : Obligations.ReleaseFallsToIdle := by
  unfold Obligations.ReleaseFallsToIdle
  intro s note j hready hnote hphase hamp0 hamp1 hm
  obtain ⟨hamp, hphase'⟩ :=
    fall_frames (g := ⟨{ s.voice with envPhase := .release }, s.draws, s.out⟩) (.inr rfl) hamp0 hamp1 hm j
  rw [mul_rateOf] at hamp hphase'
  exact ⟨_, _, exec_noteoff_of_matches hready hnote hphase, splitRenderRunsTheSameFrames j _ hready, hamp, hphase'⟩

end Sys2Proof.Machine
end

section
/-! PROOF. Stage 2 of one frame (41_oscillators.md): the waveform function, the phase accumulators, and the draws with
the click history, as formulas on the raw values. -/

namespace Sys2Proof.Machine

open Sys2Proof.Claims

/-! ## The waveform function (R115) -/

theorem kPw_eq : kPw = 1 / 2 := rfl

/-- The value of the waveform function, one case per waveform and one for every other choice. -/
theorem value_waveform_eq (noise : Nat → ℝ) (k : Int) (p : ℚ) (n : Nat) :
    (waveform Arith.exact drawSignal k p n).1.value noise = wave noise k p n := by
  unfold waveform
  split
  case h_1 => simp [wave, turnSine, Arith.exact]
  case h_2 => simp [wave, Arith.exact]
  case h_3 => simp [wave, Arith.exact]
  case h_4 => simp [wave, Arith.exact, kPw_eq, apply_ite (Signal.value noise)]
  case h_5 => exact value_drawSignal noise n
  case h_6 h0 h1 h2 h3 h4 =>
    rw [wave, if_neg h0, if_neg h1, if_neg h2, if_neg h3, if_neg h4]
    exact (value_const noise 0).trans Rat.cast_zero

/-- Only the noise waveform draws. -/
theorem waveform_draws {E S : Type} (A : Arith E S) (noise : Nat → S) (k : Int) (p : E) (n : Nat) :
    (waveform A noise k p n).2 = if k = 4 then n + 1 else n := by
  unfold waveform
  split
  case h_6 h4 => exact (if_neg h4).symm
  all_goals rfl

/-- Settles O40: case by case, the value and the draw of each waveform. -/
theorem waveformFunction : Obligations.WaveformFunction := by
  unfold Obligations.WaveformFunction
  exact fun noise k p n => ⟨value_waveform_eq noise k p n, waveform_draws _ _ k p n⟩

/-- The waveforms are bounded one by one: the triangle because the sawtooth is. -/
theorem wave_mem_Icc {noise : Nat → ℝ} (hnoise : LegalNoise noise) (k : Int) {p : ℚ} (n : Nat) (h0 : 0 ≤ p)
    (h1 : p < 1) : wave noise k p n ∈ Set.Icc (-1) 1 := by
  have hp0 : (0 : ℝ) ≤ p := by exact_mod_cast h0
  have hp1 : (p : ℝ) < 1 := by exact_mod_cast h1
  have hsaw : |2 * (p : ℝ) - 1| ≤ 1 := abs_le.mpr ⟨by linarith, by linarith⟩
  unfold wave
  split_ifs
  · exact Real.sin_mem_Icc _
  · exact abs_le.mp hsaw
  · have hpos := abs_nonneg (2 * (p : ℝ) - 1)
    exact ⟨by linarith, by linarith⟩
  · norm_num
  · norm_num
  · exact hnoise n
  · norm_num

/-- Settles O41: the value is the waveform's formula, which is bounded. -/
theorem waveformsStayInRange : Obligations.WaveformsStayInRange := by
  unfold Obligations.WaveformsStayInRange
  intro noise k p n hnoise h0 h1
  rw [value_waveform_eq]
  exact wave_mem_Icc hnoise k n h0 h1

/-! ## Phase accumulators (R111, R112, R114, R120) -/

/-- The Voice State that stage 1 leaves in the next frame (40_envelope.md R99). -/
abbrev stageOneVoice (s : State) : Voice := envelopeStage Arith.exact s.params s.voice

theorem isOn_iff_raw_pos (s : State) (p : Param) : isOn s.params p = true ↔ 0 < raw s p :=
  (isOn_iff s.params p).trans Int.cast_pos.symm

section
variable (noise : Nat → ℝ) (s : State)

theorem sweep_exact (v : Voice) : sweep Arith.exact s.params v = sweepOf s v.pitchEnv := by
  rw [sweep, hz_exact, pct_exact]
  rfl

theorem osc2Freq_exact (v : Voice) :
    osc2Freq Arith.exact s.params v = sweepOf s v.pitchEnv * (raw s .osc2Ratio / 10) := by
  rw [osc2Freq, sweep_exact, ratio_exact]
  rfl

/-- The test of R112, on raw values. -/
theorem fm_on_iff :
    (isOn s.params .osc2En && !Arith.exact.same (pct Arith.exact s.params .fmAmount) (Arith.exact.real 0)) = true ↔
      0 < raw s .osc2En ∧ raw s .fmAmount / 100 ≠ 0 := by
  rw [Bool.and_eq_true, Bool.not_eq_true', ← Bool.not_eq_true, same_exact_iff, isOn_iff_raw_pos, pct_exact]
  rfl

theorem value_fmOffset_eq :
    (fmOffset Arith.exact s.params (stageOneVoice s)).value noise = fmOf s (stageOneVoice s).osc2Env := by
  rw [fmOffset, fmOf, if_congr (fm_on_iff s) rfl rfl, apply_ite (Signal.value noise)]
  simp only [exact_scale, exact_sine, exact_signal, exact_real, pct_exact, Arith.reals, envelopeStage_phaseOsc2]
  simp [turnSine, raw, kFm]

theorem value_bodyFreq_eq :
    (bodyFreq Arith.exact s.params (stageOneVoice s)).value noise =
      (sweepOf s (stageOneVoice s).pitchEnv : ℝ) + fmOf s (stageOneVoice s).osc2Env := by
  rw [bodyFreq, exact_plus, exact_signal, sweep_exact, value_fmOffset_eq]
  rfl

theorem value_advancePhases_phaseBody :
    (advancePhases Arith.exact s.params (stageOneVoice s)).phaseBody.value noise =
      Int.fract (s.voice.phaseBody.value noise +
        ((sweepOf s (stageOneVoice s).pitchEnv : ℝ) + fmOf s (stageOneVoice s).osc2Env) / 48000) := by
  rw [advancePhases, exact_wrap, exact_plus, exact_divide, value_bodyFreq_eq, envelopeStage_phaseBody, exact_real]
  simp [Arith.reals, kSr]

theorem advancePhases_phaseOsc2_exact :
    (advancePhases Arith.exact s.params (stageOneVoice s)).phaseOsc2 =
      Int.fract (s.voice.phaseOsc2 +
        sweepOf s (stageOneVoice s).pitchEnv * (raw s .osc2Ratio / 10) * (raw s .fmRatio / 10) / 48000) := by
  rw [advancePhases, osc2Freq_exact, ratio_exact, envelopeStage_phaseOsc2]
  rfl

theorem advancePhases_phaseClick_exact :
    (advancePhases Arith.exact s.params (stageOneVoice s)).phaseClick =
      Int.fract (s.voice.phaseClick + raw s .clickFreq / 48000) := by
  rw [advancePhases, hz_exact, envelopeStage_phaseClick]
  rfl

end

/-- Settles O39: a frame's phases are those that stage 2 advances, at the frequencies of stage 1's trackers. -/
theorem phasesAdvance : Obligations.PhasesAdvance := by
  unfold Obligations.PhasesAdvance
  exact fun s noise hready => ⟨_, exec_render_one hready, value_advancePhases_phaseBody noise s,
    advancePhases_phaseOsc2_exact s, advancePhases_phaseClick_exact s⟩

/-! ## Draws and the click history (R116 to R119, R121) -/

section
variable (noise : Nat → ℝ) (s : State)

theorem clickActive_iff (v : Voice) : clickActive Arith.exact v = true ↔ clickOn v := by
  simp [clickActive, clickOn, Arith.exact]

/-- The secondary oscillator takes its draw first. -/
theorem osc2Out_draws (v : Voice) :
    (osc2Out Arith.exact drawSignal s.params v s.draws).2 = s.draws + osc2Draws s := by
  unfold osc2Out osc2Draws
  have hwave : raw s .osc2Wave = 4 ↔ choice s.params .osc2Wave = 4 := by
    rw [raw, choice_eq_rawInt]
    norm_cast
  by_cases hon : 0 < raw s .osc2En
  · rw [if_pos ((isOn_iff_raw_pos s _).mpr hon), if_congr (and_iff_right hon) rfl rfl, if_congr hwave rfl rfl,
      add_ite, Nat.add_zero]
    exact waveform_draws ..
  · rw [if_neg (mt (isOn_iff_raw_pos s _).mp hon), if_neg (mt And.left hon)]
    rfl

theorem osc2Draws_le_one : osc2Draws s ≤ 1 := by
  unfold osc2Draws
  split_ifs <;> decide

theorem clickOut_of_on {v : Voice} (h : clickOn v) (P : ParamSet) (n : Nat) :
    clickOut Arith.exact drawSignal P v n =
      (clickLevelOut Arith.exact P v (clickBlend Arith.exact P v (drawSignal n)),
        clickBlend Arith.exact P v (drawSignal n), n + 1) := if_pos ((clickActive_iff v).mpr h)

theorem clickOut_of_off {v : Voice} (h : ¬ clickOn v) (P : ParamSet) (n : Nat) :
    clickOut Arith.exact drawSignal P v n = (.const 0, v.lastClick, n) := if_neg (mt (clickActive_iff v).mp h)

/-- The click blends the draw after the secondary oscillator's. -/
theorem value_clickBlend_eq :
    (clickBlend Arith.exact s.params (stageOneVoice s) (drawSignal (s.draws + osc2Draws s))).value noise =
      blendOf noise s := by
  simp only [clickBlend, exact_plus, exact_scale, exact_sub, exact_sine, exact_real, pct_exact, value_drawSignal,
    envelopeStage_phaseClick, Arith.reals]
  simp only [blendOf, turnSine, raw]
  push_cast
  ring

end

/-- Settles O42: a frame's history and draws are those of the click, after the secondary oscillator's draw. -/
theorem clickHistoryAndDraws : Obligations.ClickHistoryAndDraws := by
  unfold Obligations.ClickHistoryAndDraws
  intro s noise hready
  refine ⟨_, exec_render_one hready, ?_⟩
  rw [State.withEngine_toBlock, Block.withEngine_voice, Block.withEngine_draws, frame_lastClick, frame_draws,
    Block.engine_voice, Block.engine_draws, osc2Out_draws]
  have hosc2 := osc2Draws_le_one s
  by_cases h : clickOn (stageOneVoice s)
  · rw [clickOut_of_on h]
    exact ⟨fun _ => ⟨value_clickBlend_eq noise s, rfl⟩, fun hoff => absurd h hoff, by dsimp only; omega⟩
  · rw [clickOut_of_off h, envelopeStage_lastClick]
    exact ⟨fun hon => absurd hon h, fun _ => ⟨rfl, rfl⟩, by dsimp only; omega⟩

end Sys2Proof.Machine
end

section
/-! PROOF. The sample of one frame (44_output_render.md R165, R166, R168): each stage's signals as the formulas of 41 to
44 on the raw values, put together along the frame. -/

namespace Sys2Proof.Machine

open Sys2Proof.Claims

variable (noise : Nat → ℝ)

/-! ## Stage 2's signals (41_oscillators.md R113, R116, R118, R119) -/

section
variable (P : ParamSet) (v : Voice)

theorem value_bodyOut_eq :
    (bodyOut Arith.exact P v).value noise = turnSine (v.phaseBody.value noise) * ((rawInt P .bodyLevel : ℝ) / 100) := by
  simp [bodyOut, exact_scale, exact_sineOf, pct_exact, Arith.reals, turnSine]

theorem value_osc2Out_eq (n : Nat) :
    (osc2Out Arith.exact drawSignal P v n).1.value noise =
      if 0 < rawInt P .osc2En then
        wave noise (rawInt P .osc2Wave) v.phaseOsc2 n * ((rawInt P .osc2Level : ℝ) / 100) * v.osc2Env
      else 0 := by
  unfold osc2Out
  split_ifs with h hraw hraw
  · simp [exact_scale, value_waveform_eq, choice_eq_rawInt, pct_exact, Arith.reals]
  · exact absurd ((isOn_iff _ _).mp h) hraw
  · exact absurd ((isOn_iff _ _).mpr hraw) h
  · simp [exact_signal, exact_real, Arith.reals]

theorem value_clickLevelOut_eq (blend : Signal) :
    (clickLevelOut Arith.exact P v blend).value noise =
      (blend.value noise - 0.7 * v.lastClick.value noise) * ((rawInt P .clickLevel : ℝ) / 100) * v.clickEnv * 3 := by
  simp only [clickLevelOut, exact_scale, exact_minus, exact_real, pct_exact, Arith.reals, kHp, kClick]
  push_cast
  ring

end

/-! ## Stage 3 (42_mixer_drive.md R140, R141) -/

theorem value_mixSignals_eq (body osc2 click : Signal) :
    (mixSignals Arith.exact body osc2 click).value noise =
      body.value noise + osc2.value noise + click.value noise := by
  rw [mixSignals, exact_plus, exact_plus]
  rfl

theorem drive_on_iff (s : State) :
    Arith.exact.less (Arith.exact.real 0) (pct Arith.exact s.params .drive) = true ↔ 0 < raw s .drive := by
  rw [pct_exact]
  exact decide_eq_true_iff.trans (div_pos_iff_of_pos_right (by norm_num))

theorem value_driveStage_eq (s : State) (mix : Signal) :
    (driveStage Arith.exact s.params mix).value noise = mixedOf s (mix.value noise) := by
  rw [driveStage, mixedOf, if_congr (drive_on_iff s) rfl rfl, apply_ite (Signal.value noise)]
  simp only [exact_scale, exact_tanh, exact_add, exact_mul, exact_div, exact_real, pct_exact, Arith.reals, kDrvIn,
    kDrvOut]
  norm_num [raw]

/-! ## Stage 4 (43_filter.md R150 to R155) -/

section
variable (P : ParamSet)

theorem cast_filterCoeff_eq : ((filterCoeff Arith.exact P : ℚ) : ℝ) = coefficient P := by
  simp only [filterCoeff, exact_mul, exact_add, exact_real, pct_exact, Arith.reals, coefficient, kCutMul, kCutAdd, kF]
  norm_num

theorem value_poleStep_eq (input old : Signal) :
    (poleStep Arith.exact input old).value noise = input.value noise + 0.3 * old.value noise := by
  simp only [poleStep, exact_plus, exact_scale, exact_real, Arith.reals, kPole]
  norm_num
  ring

/-- The cascade's input in the 12 dB mode (R152, R153). -/
theorem value_filterInput12_eq (mixed last : Signal) :
    (filterInput Arith.exact mixed last (feedback12 Arith.exact P (filterCoeff Arith.exact P))
      (squared Arith.exact (filterCoeff Arith.exact P))).value noise =
      input12 P (mixed.value noise) (last.value noise) := by
  simp only [filterInput, feedback12, squared, exact_scale, exact_minus, exact_mul, exact_sub, exact_real, pct_exact,
    Arith.reals, cast_filterCoeff_eq, kIn, kFb2, kFb2F, input12]
  norm_num
  ring

/-- The cascade's input in the 24 dB mode (R154, R155). -/
theorem value_filterInput24_eq (mixed last : Signal) :
    (filterInput Arith.exact mixed last (feedback24 Arith.exact P (filterCoeff Arith.exact P))
      (fourthPower Arith.exact (filterCoeff Arith.exact P))).value noise =
      input24 P (mixed.value noise) (last.value noise) := by
  simp only [filterInput, feedback24, fourthPower, squared, exact_scale, exact_minus, exact_mul, exact_sub, exact_real,
    pct_exact, Arith.reals, cast_filterCoeff_eq, kIn, kFb4, kFb4F, input24]
  norm_num
  ring

/-- The filter's output in its three modes (R150). -/
theorem value_filterStep_eq (mixed : Signal) (st : FilterStages Signal) :
    (filterStep Arith.exact P mixed st).1.value noise =
      filteredOf P (mixed.value noise) (st.s0.value noise) (st.s1.value noise) (st.s2.value noise)
        (st.s3.value noise) := by
  unfold filterStep filteredOf
  by_cases hen : 0 < rawInt P .filterEn
  · by_cases hmode : 0 < rawInt P .filterMode
    · simp [isOn_eq_decide, hen, hmode, filter24, value_poleStep_eq, value_filterInput24_eq]
    · simp [isOn_eq_decide, hen, hmode, filter12, value_poleStep_eq, value_filterInput12_eq]
  · simp [isOn_eq_decide, hen]

end

/-! ## The frame (44_output_render.md R165, R168) -/

theorem value_outputSample_eq (v : Voice) (filtered : Signal) :
    (outputSample Arith.exact v filtered).value noise =
      limited (filtered.value noise * 1.3 * ((v.ampEnv : ℝ) * v.currentVelocity)) := by
  simp only [outputSample, exact_clip, exact_scale, exact_mul, exact_real, Arith.reals, kOut, limited]
  norm_num

/-- The mixer's signal in the next frame: the three sources on stage 1's Voice State, the click after the secondary
oscillator's draw (R121, R140). -/
def frameMix (s : State) : Signal :=
  mixSignals Arith.exact (bodyOut Arith.exact s.params (stageOneVoice s))
    (osc2Out Arith.exact drawSignal s.params (stageOneVoice s) s.draws).1
    (clickOut Arith.exact drawSignal s.params (stageOneVoice s)
      (osc2Out Arith.exact drawSignal s.params (stageOneVoice s) s.draws).2).1

/-- The sample of the next frame. -/
def frameSample (s : State) : Signal :=
  outputSample Arith.exact (stageOneVoice s)
    (filterStep Arith.exact s.params (driveStage Arith.exact s.params (frameMix s)) s.voice.filterStage).1

theorem frame_out_eq (s : State) :
    (frame Arith.exact drawSignal s.params s.engine).out = s.out ++ [⟨frameSample s, frameSample s⟩] := by
  rw [frameSample, ← envelopeStage_filterStage Arith.exact s.params s.voice]
  rfl

section
variable (s : State)

open Classical in
/-- The click's signal: R118 when active, R119 when not. -/
theorem value_clickOut_eq :
    (clickOut Arith.exact drawSignal s.params (stageOneVoice s) (s.draws + osc2Draws s)).1.value noise =
      if clickOn (stageOneVoice s) then
        (blendOf noise s - 0.7 * s.voice.lastClick.value noise) * ((raw s .clickLevel : ℝ) / 100) *
          (stageOneVoice s).clickEnv * 3
      else 0 := by
  by_cases h : clickOn (stageOneVoice s)
  · rw [clickOut_of_on h, if_pos h, value_clickLevelOut_eq, value_clickBlend_eq, envelopeStage_lastClick, raw,
      Rat.cast_intCast]
  · rw [clickOut_of_off h, if_neg h, value_const, Rat.cast_zero]

theorem value_frameMix_eq : (frameMix s).value noise = mixOf noise s (stageOneVoice s) := by
  rw [frameMix, value_mixSignals_eq, osc2Out_draws, value_bodyOut_eq, value_osc2Out_eq, value_clickOut_eq,
    envelopeStage_phaseBody, envelopeStage_phaseOsc2, mixOf]
  simp only [raw, Rat.cast_intCast, Int.cast_pos]

theorem value_frameSample_eq :
    (frameSample s).value noise =
      limited
        (filteredOf s.params (mixedOf s (mixOf noise s (stageOneVoice s))) (s.voice.filterStage.s0.value noise)
            (s.voice.filterStage.s1.value noise) (s.voice.filterStage.s2.value noise)
            (s.voice.filterStage.s3.value noise)
          * 1.3 * (((stageOneVoice s).ampEnv : ℝ) * s.voice.currentVelocity)) := by
  rw [frameSample, value_outputSample_eq, value_filterStep_eq, value_driveStage_eq, value_frameMix_eq,
    envelopeStage_currentVelocity]

end

/-- Settles O49: the frame appends its sample twice and leaves stage 1's envelopes, which the formulas take. -/
theorem sampleOfOneFrame : Obligations.SampleOfOneFrame := by
  unfold Obligations.SampleOfOneFrame
  exact fun s noise hready =>
    ⟨_, _, exec_render_one hready, frame_out_eq s, rfl, value_frameSample_eq noise s⟩

end Sys2Proof.Machine
end

section
/-! PROOF. Stage 3 (42_mixer_drive.md R140 to R142): the mixer's sum, the drive with its exact bypass, and the bound that
the drive's `tanh` gives. -/

namespace Sys2Proof.Machine

open Sys2Proof.Claims

variable {s : State}

/-! ## The drive off (R141) -/

/-- DRIVE ≤ 0 is the stage's own test, so the bypass is the very signal. -/
theorem driveStage_of_drive_nonpos (h : raw s .drive ≤ 0) (mix : Signal) :
    driveStage Arith.exact s.params mix = mix :=
  driveStage_off Arith.exact s.params mix (Bool.eq_false_iff.mpr (mt (drive_on_iff s).mp h.not_gt))

/-- Settles O43: sum and drive by their values, the bypass by the stage's own test. -/
theorem mixerAndDrive : Obligations.MixerAndDrive := by
  unfold Obligations.MixerAndDrive
  exact fun noise s body osc2 click mix =>
    ⟨value_mixSignals_eq noise body osc2 click, value_driveStage_eq noise s mix,
      fun h => driveStage_of_drive_nonpos h mix⟩

/-! ## The bound (R142) -/

/-- The divisor of the loudness compensation is above 1 with the drive on. -/
theorem one_lt_driveDivisor (h : 0 < raw s .drive) : (1 : ℝ) < 1 + 1.5 * ((raw s .drive : ℝ) / 100) := by
  have hraw : (0 : ℝ) < raw s .drive := Rat.cast_pos.mpr h
  exact lt_add_of_pos_right 1 (by positivity)

/-- `|tanh| < 1`, scaled by the positive compensation. -/
theorem abs_mixedOf_lt (h : 0 < raw s .drive) (mix : ℝ) :
    |mixedOf s mix| < 1 / (1 + 1.5 * ((raw s .drive : ℝ) / 100)) := by
  have hgain : 0 < 1 / (1 + 1.5 * ((raw s .drive : ℝ) / 100)) :=
    one_div_pos.mpr (one_pos.trans (one_lt_driveDivisor h))
  rw [mixedOf, if_pos h, abs_mul, abs_of_pos hgain]
  exact mul_lt_of_lt_one_left hgain (Real.abs_tanh_lt_one _)

/-- With the drive off a constant signal above the bound passes as it is. -/
theorem exists_lt_value_driveStage (noise : Nat → ℝ) (bound : ℝ) (h : raw s .drive ≤ 0) :
    ∃ mix, bound < (driveStage Arith.exact s.params mix).value noise := by
  obtain ⟨q, hq⟩ := exists_rat_gt bound
  refine ⟨.const q, ?_⟩
  rwa [driveStage_of_drive_nonpos h, value_const]

/-- Settles O44: the bound is that of `tanh` scaled by the compensation; without drive the constants have no bound. -/
theorem drivenSignalIsBounded : Obligations.DrivenSignalIsBounded := by
  unfold Obligations.DrivenSignalIsBounded
  refine ⟨fun noise s mix h => ⟨?_, ?_⟩, fun noise s bound h => exists_lt_value_driveStage noise bound h⟩
  · rw [value_driveStage_eq]
    exact abs_mixedOf_lt h _
  · exact div_le_one_of_le₀ (one_lt_driveDivisor h).le (zero_le_one.trans (one_lt_driveDivisor h).le)

end Sys2Proof.Machine
end

section
/-! PROOF. Stage 4 (43_filter.md R150 to R160): the recurrences that the two modes write, at the filter and in a frame,
the bypass that keeps the stages however many frames run, and the cascade's fixed point. -/

namespace Sys2Proof.Machine

open Sys2Proof.Claims

/-! ## The modes (R150) -/

section
variable {P : ParamSet}

theorem filterStep_twelve (hen : 0 < rawInt P .filterEn) (hmode : rawInt P .filterMode ≤ 0) (mixed : Signal)
    (st : FilterStages Signal) : filterStep Arith.exact P mixed st = filter12 Arith.exact P mixed st := by
  simp [filterStep, isOn_eq_decide, hen, hmode.not_gt]

theorem filterStep_twentyFour (hen : 0 < rawInt P .filterEn) (hmode : 0 < rawInt P .filterMode) (mixed : Signal)
    (st : FilterStages Signal) : filterStep Arith.exact P mixed st = filter24 Arith.exact P mixed st := by
  simp [filterStep, isOn_eq_decide, hen, hmode]

theorem filterStep_bypass (hen : rawInt P .filterEn ≤ 0) (mixed : Signal) (st : FilterStages Signal) :
    filterStep Arith.exact P mixed st = (mixed, st) :=
  filterStep_off Arith.exact P mixed st (Bool.eq_false_iff.mpr (mt (isOn_iff P .filterEn).mp hen.not_gt))

end

/-! ## The recurrences (R151 to R155) -/

/-- `next` is what the 12 dB mode writes over the stages `old` for the input `mixed` (R153). -/
structure WritesTwelve (noise : Nat → ℝ) (P : ParamSet) (mixed : ℝ) (old next : FilterStages Signal) : Prop where
  s0 : next.s0.value noise = input12 P mixed (old.s1.value noise) + 0.3 * old.s0.value noise
  s1 : next.s1.value noise = next.s0.value noise + 0.3 * old.s1.value noise
  s2 : next.s2 = old.s2
  s3 : next.s3 = old.s3

/-- `next` is what the 24 dB mode writes over the stages `old` for the input `mixed` (R155). -/
structure WritesTwentyFour (noise : Nat → ℝ) (P : ParamSet) (mixed : ℝ) (old next : FilterStages Signal) : Prop where
  s0 : next.s0.value noise = input24 P mixed (old.s3.value noise) + 0.3 * old.s0.value noise
  s1 : next.s1.value noise = next.s0.value noise + 0.3 * old.s1.value noise
  s2 : next.s2.value noise = next.s1.value noise + 0.3 * old.s2.value noise
  s3 : next.s3.value noise = next.s2.value noise + 0.3 * old.s3.value noise

section
variable (noise : Nat → ℝ) (P : ParamSet) (mixed : Signal) (st : FilterStages Signal)

theorem filter12_writesTwelve :
    WritesTwelve noise P (mixed.value noise) st (filter12 Arith.exact P mixed st).2 where
  s0 := (value_poleStep_eq noise _ _).trans (congrArg (· + _) (value_filterInput12_eq noise P mixed st.s1))
  s1 := value_poleStep_eq noise _ _
  s2 := rfl
  s3 := rfl

theorem filter24_writesTwentyFour :
    WritesTwentyFour noise P (mixed.value noise) st (filter24 Arith.exact P mixed st).2 where
  s0 := (value_poleStep_eq noise _ _).trans (congrArg (· + _) (value_filterInput24_eq noise P mixed st.s3))
  s1 := value_poleStep_eq noise _ _
  s2 := value_poleStep_eq noise _ _
  s3 := value_poleStep_eq noise _ _

end

/-! ## The stages after a frame (R157) -/

/-- The signal that stage 4 takes in the next frame. -/
def frameMixed (s : State) : Signal := driveStage Arith.exact s.params (frameMix s)

theorem value_frameMixed_eq (noise : Nat → ℝ) (s : State) :
    (frameMixed s).value noise = mixedOf s (mixOf noise s (stageOneVoice s)) := by
  rw [frameMixed, value_driveStage_eq, value_frameMix_eq]

theorem frame_filterStage_eq (s : State) :
    (frame Arith.exact drawSignal s.params s.engine).voice.filterStage =
      (filterStep Arith.exact s.params (frameMixed s) s.voice.filterStage).2 :=
  frame_filterStage Arith.exact drawSignal s.params s.engine

section
variable {s : State}

theorem frame_writesTwelve (noise : Nat → ℝ) (hen : 0 < raw s .filterEn) (hmode : raw s .filterMode ≤ 0) :
    WritesTwelve noise s.params (mixedOf s (mixOf noise s (stageOneVoice s))) s.voice.filterStage
      (frame Arith.exact drawSignal s.params s.engine).voice.filterStage := by
  rw [frame_filterStage_eq, filterStep_twelve (Int.cast_pos.mp hen) (Int.cast_nonpos.mp hmode), ← value_frameMixed_eq]
  exact filter12_writesTwelve noise s.params (frameMixed s) s.voice.filterStage

theorem frame_writesTwentyFour (noise : Nat → ℝ) (hen : 0 < raw s .filterEn) (hmode : 0 < raw s .filterMode) :
    WritesTwentyFour noise s.params (mixedOf s (mixOf noise s (stageOneVoice s))) s.voice.filterStage
      (frame Arith.exact drawSignal s.params s.engine).voice.filterStage := by
  rw [frame_filterStage_eq, filterStep_twentyFour (Int.cast_pos.mp hen) (Int.cast_pos.mp hmode), ← value_frameMixed_eq]
  exact filter24_writesTwentyFour noise s.params (frameMixed s) s.voice.filterStage

end

/-- Settles O45: the mode is `filter12`, whose recurrences the frame runs on its driven signal. -/
theorem twelveDecibelFilter : Obligations.TwelveDecibelFilter := by
  unfold Obligations.TwelveDecibelFilter
  refine ⟨fun noise P mixed st hen hmode => ?_, fun noise s hready hen hmode => ?_⟩
  · have h := filter12_writesTwelve noise P mixed st
    exact ⟨_, _, filterStep_twelve hen hmode mixed st, h.s0, h.s1, h.s2, h.s3, rfl⟩
  · have h := frame_writesTwelve noise hen hmode
    exact ⟨_, exec_render_one hready, h.s0, h.s1, h.s2, h.s3⟩

/-- Settles O46: the mode is `filter24`, whose recurrences the frame runs on its driven signal. -/
theorem twentyFourDecibelFilter : Obligations.TwentyFourDecibelFilter := by
  unfold Obligations.TwentyFourDecibelFilter
  refine ⟨fun noise P mixed st hen hmode => ?_, fun noise s hready hen hmode => ?_⟩
  · have h := filter24_writesTwentyFour noise P mixed st
    exact ⟨_, _, filterStep_twentyFour hen hmode mixed st, h.s0, h.s1, h.s2, h.s3, rfl⟩
  · have h := frame_writesTwentyFour noise hen hmode
    exact ⟨_, exec_render_one hready, h.s0, h.s1, h.s2, h.s3⟩

/-! ## The bypass (R156) -/

theorem frame_filterStage_of_bypass {P : ParamSet} (hen : rawInt P .filterEn ≤ 0) (g : Engine ℚ Signal) :
    (frame Arith.exact drawSignal P g).voice.filterStage = g.voice.filterStage := by
  rw [frame_filterStage, filterStep_bypass hen]

/-- Settles O47: each frame keeps the stages, so any number of frames does. -/
theorem filterBypassIsExact : Obligations.FilterBypassIsExact := by
  unfold Obligations.FilterBypassIsExact
  refine ⟨fun P mixed st hen => filterStep_bypass hen mixed st, fun s n hready hen => ⟨_, exec_ready hready, ?_⟩⟩
  have hframe := frame_filterStage_of_bypass (Int.cast_nonpos.mp hen)
  exact frames_induction Arith.exact drawSignal s.params (I := fun g => g.voice.filterStage = s.voice.filterStage)
    (fun g hg => (hframe g).trans hg) n.toNat s.engine rfl

/-! ## The fixed point (R160) -/

/-- A one-pole stage with feedback 0.3 whose input stands at `u·(10/7)^k` stays at `u·(10/7)^(k + 1)`:
`1 / (1 − 0.3) = 10/7`. -/
theorem pole_rests {u input old next : ℝ} (k : Nat) (hnext : next = input + 0.3 * old)
    (hinput : input = u * (10 / 7) ^ k) (hold : old = u * (10 / 7) ^ (k + 1)) : next = old := by
  rw [hnext, hinput, hold, pow_succ]
  ring

section
variable {P : ParamSet}

theorem input12_of_no_resonance (h : rawInt P .resonance = 0) (mixed last : ℝ) :
    input12 P mixed last = mixed * 0.35013 * coefficient P ^ 2 := by
  simp [input12, h]

theorem input24_of_no_resonance (h : rawInt P .resonance = 0) (mixed last : ℝ) :
    input24 P mixed last = mixed * 0.35013 * coefficient P ^ 4 := by
  simp [input24, h]

variable {noise : Nat → ℝ} {mixed u : ℝ} {old next : FilterStages Signal}

/-- The 12 dB stages at the powers of 10/7 times the cascade's input rest there. -/
theorem WritesTwelve.rests (h : WritesTwelve noise P mixed old next)
    (hu : input12 P mixed (old.s1.value noise) = u) (h0 : old.s0.value noise = u * (10 / 7))
    (h1 : old.s1.value noise = u * (10 / 7) ^ 2) :
    next.s0.value noise = old.s0.value noise ∧ next.s1.value noise = old.s1.value noise := by
  have rest0 := pole_rests 0 h.s0 (by rw [hu, pow_zero, mul_one]) (by rw [h0, zero_add, pow_one])
  have rest1 := pole_rests 1 h.s1 (by rw [rest0, h0, pow_one]) h1
  exact ⟨rest0, rest1⟩

/-- The 24 dB stages at the powers of 10/7 times the cascade's input rest there. -/
theorem WritesTwentyFour.rests (h : WritesTwentyFour noise P mixed old next)
    (hu : input24 P mixed (old.s3.value noise) = u) (h0 : old.s0.value noise = u * (10 / 7))
    (h1 : old.s1.value noise = u * (10 / 7) ^ 2) (h2 : old.s2.value noise = u * (10 / 7) ^ 3)
    (h3 : old.s3.value noise = u * (10 / 7) ^ 4) :
    next.s0.value noise = old.s0.value noise ∧ next.s1.value noise = old.s1.value noise ∧
      next.s2.value noise = old.s2.value noise ∧ next.s3.value noise = old.s3.value noise := by
  have rest0 := pole_rests 0 h.s0 (by rw [hu, pow_zero, mul_one]) (by rw [h0, zero_add, pow_one])
  have rest1 := pole_rests 1 h.s1 (by rw [rest0, h0, pow_one]) h1
  have rest2 := pole_rests 2 h.s2 (rest1.trans h1) h2
  have rest3 := pole_rests 3 h.s3 (rest2.trans h2) h3
  exact ⟨rest0, rest1, rest2, rest3⟩

end

/-- Settles O48: without resonance the cascade's input is the scaled signal, and each pole rests at 10/7 its input. -/
theorem dcGainOfTheCascade : Obligations.DcGainOfTheCascade := by
  unfold Obligations.DcGainOfTheCascade
  refine fun noise P mixed st hen hres => ⟨fun hmode h0 h1 => ?_, fun hmode h0 h1 h2 h3 => ?_⟩
  · obtain ⟨rest0, rest1⟩ :=
      (filter12_writesTwelve noise P mixed st).rests (input12_of_no_resonance hres _ _) h0 h1
    rw [filterStep_twelve hen hmode]
    exact ⟨rest1.trans h1, rest0, rest1⟩
  · obtain ⟨rest0, rest1, rest2, rest3⟩ :=
      (filter24_writesTwentyFour noise P mixed st).rests (input24_of_no_resonance hres _ _) h0 h1 h2 h3
    rw [filterStep_twentyFour hen hmode]
    exact ⟨rest3.trans h3, rest0, rest1, rest2, rest3⟩

end Sys2Proof.Machine
end

section
/-! PROOF. RENDER as a whole (44_output_render.md R166 to R169, R171): its frames in sequence, what they append to OUT,
what they leave, and the draws that determine them. -/

namespace Sys2Proof.Machine

/-! ## RENDERs add up (R169) -/

/-- Settles O50: RENDER iterates the frame function, and iterations add up. -/
theorem renderRunsFramesInSequence : Obligations.RenderRunsFramesInSequence := by
  unfold Obligations.RenderRunsFramesInSequence
  intro n s hready
  refine ⟨rfl, exec_render_ready hready n, exec_render_ready hready 0, fun m hfits =>
    ⟨_, exec_render_ready hready n, ?_⟩⟩
  have hready' (g : Engine ℚ Signal) : (s.withEngine g).life = .ready := hready
  rw [exec_render_ready (hready' _), exec_render_ready hready, BitVec.toNat_add_of_lt hfits, Nat.add_comm n.toNat,
    Function.iterate_add_apply]
  rfl

/-! ## The frames on OUT (R166, R167) -/

/-- `n` frames append `n` sample pairs that meet OUT's invariant, whatever OUT held before. -/
theorem exists_frames_out_frameInv (P : ParamSet) :
    ∀ (n : Nat) (g : Engine ℚ Signal), ∃ fs, (frames Arith.exact drawSignal P n g).out = g.out ++ fs ∧
      fs.length = n ∧ ∀ f ∈ fs, FrameInv f
  | 0, g => ⟨[], (List.append_nil _).symm, rfl, fun _ hf => nomatch hf⟩
  | n + 1, g => by
    obtain ⟨x, hx⟩ := exists_frame_out Arith.exact drawSignal P g
    obtain ⟨fs, hfs, hlen, hinv⟩ := exists_frames_out_frameInv P n (frame Arith.exact drawSignal P g)
    refine ⟨⟨x.clip, x.clip⟩ :: fs, ?_, by rw [List.length_cons, hlen],
      List.forall_mem_cons.mpr ⟨frameInv_clip x, hinv⟩⟩
    rw [frames_succ, hfs, hx, List.append_assoc]
    rfl

/-- Settles O52: each new frame is one clipped signal twice. -/
theorem everySampleIsBounded : Obligations.EverySampleIsBounded := by
  unfold Obligations.EverySampleIsBounded
  intro n s hready
  obtain ⟨fs, hout, hlen, hinv⟩ := exists_frames_out_frameInv s.params n.toNat s.engine
  exact ⟨_, fs, exec_ready hready, hout, hlen, hinv⟩

/-! ## What frames keep (R168) -/

section
variable {E S : Type} (A : Arith E S) (noise : Nat → S) (P : ParamSet)

theorem le_waveform_draws (k : Int) (p : E) (n : Nat) : n ≤ (waveform A noise k p n).2 := by
  rw [waveform_draws]
  split
  · exact Nat.le_succ n
  · exact le_refl n

theorem le_osc2Out_draws (v : VoiceState E S) (n : Nat) : n ≤ (osc2Out A noise P v n).2 := by
  unfold osc2Out
  split
  · exact le_waveform_draws A noise _ _ n
  · exact le_refl n

theorem le_clickOut_draws (v : VoiceState E S) (n : Nat) : n ≤ (clickOut A noise P v n).2.2 := by
  unfold clickOut
  split
  · exact Nat.le_succ n
  · exact le_refl n

theorem le_frame_draws (g : Engine E S) : g.draws ≤ (frame A noise P g).draws :=
  (le_osc2Out_draws A noise P _ _).trans (le_clickOut_draws A noise P _ _)

/-- What `h` keeps of `g` when frames lead from `g` to `h`. -/
structure EngineExtends (g h : Engine E S) : Prop where
  currentNote : h.voice.currentNote = g.voice.currentNote
  currentVelocity : h.voice.currentVelocity = g.voice.currentVelocity
  out : g.out <+: h.out
  draws : g.draws ≤ h.draws

theorem EngineExtends.refl (g : Engine E S) : EngineExtends g g := ⟨rfl, rfl, List.prefix_rfl, le_refl _⟩

theorem EngineExtends.frame {g h : Engine E S} (hgh : EngineExtends g h) : EngineExtends g (frame A noise P h) where
  currentNote := by simpa using hgh.currentNote
  currentVelocity := by simpa using hgh.currentVelocity
  out := hgh.out.trans (List.prefix_append _ _)
  draws := hgh.draws.trans (le_frame_draws A noise P h)

theorem engineExtends_frames (n : Nat) (g : Engine E S) : EngineExtends g (frames A noise P n g) :=
  frames_induction A noise P (I := EngineExtends g) (fun _ => EngineExtends.frame A noise P) n g (.refl g)

end

/-- Settles O53: RENDER writes the engine part alone, and its frames extend that. -/
theorem renderLeavesTheRest : Obligations.RenderLeavesTheRest := by
  unfold Obligations.RenderLeavesTheRest
  intro n s hready
  have h := engineExtends_frames Arith.exact drawSignal s.params n.toNat s.engine
  exact ⟨_, exec_ready hready, rfl, rfl, rfl, rfl, rfl, rfl, rfl, h.currentNote, h.currentVelocity, h.out, h.draws⟩

/-! ## The draws that a frame reads (R171) -/

section
open Set

variable {E S : Type} (A : Arith E S) {noise noise' : Nat → S} (P : ParamSet)

/-- Noise alone draws (R115). -/
theorem waveform_congr {k : Int} {p : E} {n : Nat} (h : EqOn noise noise' (Ico n (waveform A noise k p n).2)) :
    waveform A noise k p n = waveform A noise' k p n := by
  unfold waveform at h ⊢
  split
  case h_5 => exact congrArg (·, n + 1) (h ⟨le_refl n, Nat.lt_succ_self n⟩)
  all_goals rfl

theorem osc2Out_congr {v : VoiceState E S} {n : Nat} (h : EqOn noise noise' (Ico n (osc2Out A noise P v n).2)) :
    osc2Out A noise P v n = osc2Out A noise' P v n := by
  unfold osc2Out at h ⊢
  split_ifs at h ⊢
  · rw [waveform_congr A h]
  · rfl

theorem clickOut_congr {v : VoiceState E S} {n : Nat} (h : EqOn noise noise' (Ico n (clickOut A noise P v n).2.2)) :
    clickOut A noise P v n = clickOut A noise' P v n := by
  unfold clickOut at h ⊢
  split_ifs at h ⊢
  · have hdraw : noise n = noise' n := h ⟨le_refl n, Nat.lt_succ_self n⟩
    rw [hdraw]
  · rfl

theorem oscillatorStage_congr {v : VoiceState E S} {n : Nat}
    (h : EqOn noise noise' (Ico n (oscillatorStage A noise P v n).draws)) :
    oscillatorStage A noise P v n = oscillatorStage A noise' P v n := by
  have hosc2 : osc2Out A noise P v n = osc2Out A noise' P v n :=
    osc2Out_congr A P (h.mono (Ico_subset_Ico_right (le_clickOut_draws A noise P v _)))
  have hclick : clickOut A noise P v (osc2Out A noise P v n).2 = clickOut A noise' P v (osc2Out A noise P v n).2 :=
    clickOut_congr A P (h.mono (Ico_subset_Ico_left (le_osc2Out_draws A noise P v n)))
  rw [hosc2] at hclick
  simp only [oscillatorStage, hosc2, hclick]

theorem frame_congr {g : Engine E S} (h : EqOn noise noise' (Ico g.draws (frame A noise P g).draws)) :
    frame A noise P g = frame A noise' P g := by
  simp only [frame, oscillatorStage_congr A P h]

/-- Streams that agree on the draws that `n` frames take give the same frames and the same end. -/
theorem frames_congr :
    ∀ {n : Nat} {g : Engine E S}, EqOn noise noise' (Ico g.draws (frames A noise P n g).draws) →
      frames A noise P n g = frames A noise' P n g
  | 0, _, _ => rfl
  | n + 1, g, h => by
    have hfirst : frame A noise P g = frame A noise' P g :=
      frame_congr A P (h.mono (Ico_subset_Ico_right (engineExtends_frames A noise P n _).draws))
    have hrest : frames A noise P n (frame A noise P g) = frames A noise' P n (frame A noise P g) :=
      frames_congr (h.mono (Ico_subset_Ico_left (le_frame_draws A noise P g)))
    rw [frames_succ, frames_succ, hrest, hfirst]

end

/-- Settles O54: real values commute with the frames, and the frames over the reals read no other draws. -/
theorem renderIsDeterminedByItsDraws : Obligations.RenderIsDeterminedByItsDraws := by
  unfold Obligations.RenderIsDeterminedByItsDraws
  intro n s noise noise' hready hstart
  refine ⟨_, exec_ready hready, fun hdraws => ?_⟩
  have hreal (noise : Nat → ℝ) : realEngine noise (stateEffect (.render n) s).engine =
      frames Arith.reals noise s.params n.toNat (realEngine noise s.engine) :=
    realEngine_frames noise s.params n.toNat s.engine
  have hcongr : frames Arith.reals noise s.params n.toNat (realEngine noise s.engine) =
      frames Arith.reals noise' s.params n.toNat (realEngine noise s.engine) :=
    frames_congr Arith.reals s.params fun k hk => hdraws k hk.1 (by rw [← hreal] at hk; exact hk.2)
  rw [hreal, hcongr, hstart, ← hreal]

end Sys2Proof.Machine
end

section
/-! PROOF. The word of a sample (44_output_render.md R170): rounding to the nearest integer, the exponent's search, the
word that a magnitude is rounded to, and the grid that all binary32 values lie on. -/

namespace Sys2Proof.Machine

/-! ## The last place -/

/-- The weight of the last significand bit in the binades of exponent `E − 126`, the subnormals for `E = 0`. -/
noncomputable def lastPlace (E : Nat) : ℝ := 2 ^ ((E : Int) - 149)

theorem lastPlace_pos (E : Nat) : 0 < lastPlace E := zpow_pos two_pos _

theorem zpow_eq_mul_lastPlace {E : Nat} {p : Int} (d : Nat) (h : p = d + ((E : Int) - 149)) :
    (2 : ℝ) ^ p = 2 ^ d * lastPlace E := by
  rw [h, zpow_add₀ two_ne_zero, zpow_natCast, lastPlace]

theorem lastPlace_eq_of_le {E q : Nat} (h : E ≤ q) : lastPlace q = 2 ^ (q - E) * lastPlace E :=
  zpow_eq_mul_lastPlace (q - E) (by omega)

theorem lastPlace_succ (E : Nat) : lastPlace (E + 1) = 2 * lastPlace E := by
  rw [lastPlace_eq_of_le E.le_succ, Nat.succ_eq_add_one, Nat.add_sub_cancel_left, pow_one]

theorem lastPlace_mono {E q : Nat} (h : E ≤ q) : lastPlace E ≤ lastPlace q :=
  zpow_le_zpow_right₀ one_le_two (by omega)

/-! ## The exponent -/

/-- The search ends at the binade that holds `a`, or at its last exponent below it. -/
theorem exponentBelow_spec {a : ℝ} : ∀ (fuel : Nat) (e : Int), a < 2 ^ (e + 1) →
    e - fuel ≤ exponentBelow fuel a e ∧ a < 2 ^ (exponentBelow fuel a e + 1) ∧
      (exponentBelow fuel a e = e - fuel ∨ 2 ^ exponentBelow fuel a e ≤ a)
  | 0, e, h => ⟨by simp [exponentBelow], h, .inl (by simp [exponentBelow])⟩
  | fuel + 1, e, h => by
    unfold exponentBelow
    split_ifs with he
    · exact ⟨by omega, h, .inr he⟩
    · obtain ⟨hge, hlt, hor⟩ := exponentBelow_spec fuel (e - 1) (by simpa using he)
      exact ⟨by omega, hlt, hor.imp_left fun h => by omega⟩

/-- The exponent of a magnitude up to 1, from −126 on: the binade that holds it, or the subnormals' exponent. -/
theorem exists_binary32Exponent {a : ℝ} (h : a ≤ 1) :
    ∃ E : Nat, binary32Exponent a = (E : Int) - 126 ∧ E ≤ 126 ∧ a < 2 ^ 24 * lastPlace E ∧
      (E = 0 ∨ 2 ^ 23 * lastPlace E ≤ a) := by
  have hmax : a < 2 ^ ((127 : Int) + 1) := h.trans_lt (one_lt_zpow₀ one_lt_two (by norm_num))
  obtain ⟨hge, hlt, hor⟩ := exponentBelow_spec 253 127 hmax
  rw [← binary32Exponent] at hge hlt hor
  obtain ⟨E, hE⟩ := Int.eq_ofNat_of_zero_le (a := binary32Exponent a + 126) (by omega)
  obtain hE : binary32Exponent a = (E : Int) - 126 := by omega
  rw [hE] at hlt hor
  have hE' : E ≤ 126 := by
    obtain hbottom | hbinade := hor
    · omega
    · have hle : (2 : ℝ) ^ ((E : Int) - 126) ≤ 2 ^ (0 : Int) := by simpa using hbinade.trans h
      have := (zpow_le_zpow_iff_right₀ (one_lt_two (α := ℝ))).mp hle
      omega
  rw [zpow_eq_mul_lastPlace 24 (by push_cast; ring)] at hlt
  rw [zpow_eq_mul_lastPlace 23 (by push_cast; ring)] at hor
  exact ⟨E, hE, hE', hlt, hor.imp_left fun hbottom => by omega⟩

/-! ## Rounding -/

/-- `m` is an integer nearest to `y`, and even where another is as near. -/
structure NearestEven (y : ℝ) (m : Int) : Prop where
  near : |y - m| ≤ 1 / 2
  even : |y - m| = 1 / 2 → Even m

theorem nearestEven_roundHalfEven (y : ℝ) : NearestEven y (roundHalfEven y) := by
  have hlow : (⌊y⌋ : ℝ) ≤ y := Int.floor_le y
  have hhigh : y < ⌊y⌋ + 1 := Int.lt_floor_add_one y
  have hdown : |y - (⌊y⌋ : ℝ)| = y - ⌊y⌋ := abs_of_nonneg (by linarith)
  have hup : |y - ((⌊y⌋ + 1 : Int) : ℝ)| = ⌊y⌋ + 1 - y := by
    rw [abs_sub_comm, Int.cast_add, Int.cast_one, abs_of_nonneg (by linarith)]
  simp only [roundHalfEven]
  split_ifs with hbelow habove heven
  · exact ⟨by linarith, fun h => by linarith⟩
  · exact ⟨by linarith, fun h => by linarith⟩
  · exact ⟨by linarith, fun _ => Int.even_iff.mpr heven⟩
  · exact ⟨by linarith, fun _ => by rw [Int.even_iff]; omega⟩

section
variable {y : ℝ} {m k : Int} (h : NearestEven y m)
include h

theorem NearestEven.le (k : Int) : |y - m| ≤ |y - k| ∧ (|y - m| = |y - k| → m = k ∨ Even m) := by
  by_cases hk : m = k
  · exact ⟨by rw [hk], fun _ => .inl hk⟩
  · have hapart : (1 : ℝ) ≤ |(m : ℝ) - k| := by exact_mod_cast Int.one_le_abs (sub_ne_zero.mpr hk)
    have htriangle : |(m : ℝ) - k| ≤ |y - m| + |y - k| := abs_sub_comm y (m : ℝ) ▸ abs_sub_le _ _ _
    have hnear := h.near
    exact ⟨by linarith, fun heq => .inr (h.even (by linarith))⟩

/-- Rounding does not pass an integer. -/
theorem NearestEven.le_of_le (hy : y ≤ k) : m ≤ k := by
  by_contra hlt
  have hk : (k : ℝ) + 1 ≤ m := by exact_mod_cast not_le.mp hlt
  have hnear := (abs_le.mp h.near).1
  linarith

theorem NearestEven.ge_of_ge (hy : k ≤ y) : k ≤ m := by
  by_contra hlt
  have hk : (m : ℝ) + 1 ≤ k := by exact_mod_cast not_le.mp hlt
  have hnear := (abs_le.mp h.near).2
  linarith

end

/-! ## The word of a magnitude -/

/-- The word of the magnitude `a` has the exponent `E − 126` and the significand `M`, which is `a` in units of the last
place, rounded; the significand may carry into the exponent. -/
structure RoundsTo (a : ℝ) (E M : Nat) : Prop where
  exponent_le : E ≤ 126
  significand_le : M ≤ 2 ^ 24
  normal : E = 0 ∨ 2 ^ 23 ≤ M ∧ 2 ^ 23 * lastPlace E ≤ a
  nearest : NearestEven (a / lastPlace E) M
  toNat : (binary32 a).toNat = E * 2 ^ 23 + M

theorem exists_roundsTo {a : ℝ} (h0 : 0 ≤ a) (h1 : a ≤ 1) : ∃ E M, RoundsTo a E M := by
  obtain ⟨E, hexp, hE, hlt, hor⟩ := exists_binary32Exponent h1
  have hplace := lastPlace_pos E
  have hround := nearestEven_roundHalfEven (a / lastPlace E)
  obtain ⟨M, hM⟩ := Int.eq_ofNat_of_zero_le (hround.ge_of_ge (k := 0) (by push_cast; positivity))
  rw [hM] at hround
  have htop : (M : Int) ≤ 2 ^ 24 := hround.le_of_le (by exact_mod_cast (div_le_iff₀ hplace).mpr hlt.le)
  have hbottom (h : 2 ^ 23 * lastPlace E ≤ a) : (2 ^ 23 : Int) ≤ M :=
    hround.ge_of_ge (by exact_mod_cast (le_div_iff₀ hplace).mpr h)
  have hscale : a * 2 ^ ((23 : Int) - ((E : Int) - 126)) = a / lastPlace E := by
    rw [lastPlace, div_eq_mul_inv, ← zpow_neg]
    congr 2
    ring
  refine ⟨E, M, hE, by exact_mod_cast htop, hor.imp_right fun h => ⟨by exact_mod_cast hbottom h, h⟩, hround, ?_⟩
  simp only [binary32, not_lt.mpr h0, if_false, abs_of_nonneg h0, hexp, hscale, hM, BitVec.toNat_ofInt]
  omega

/-! ## Values of words -/

/-- The magnitude of an exponent field and a fraction field. -/
noncomputable def magnitudeOf : Nat → Nat → ℝ
  | 0, fraction => fraction * lastPlace 0
  | E + 1, fraction => (2 ^ 23 + fraction : Nat) * lastPlace E

theorem magnitudeOf_eq (exponent fraction : Nat) :
    magnitudeOf exponent fraction =
      if exponent = 0 then (fraction : ℝ) * 2 ^ (-149 : Int)
      else ((2 ^ 23 + fraction : Nat) : ℝ) * 2 ^ ((exponent : Int) - 150) := by
  cases exponent with
  | zero => simp [magnitudeOf, lastPlace]
  | succ E =>
    have hexp : ((E + 1 : Nat) : Int) - 150 = E - 149 := by omega
    rw [if_neg E.succ_ne_zero, hexp]
    rfl

theorem binary32Value_eq (w : Word) :
    (binary32Value w : ℝ) =
      if w.msb then -magnitudeOf (w.toNat / 2 ^ 23 % 2 ^ 8) (w.toNat % 2 ^ 23)
      else magnitudeOf (w.toNat / 2 ^ 23 % 2 ^ 8) (w.toNat % 2 ^ 23) := by
  simp only [binary32Value, magnitudeOf_eq, BitVec.extractLsb'_toNat, Nat.shiftRight_eq_div_pow, Nat.pow_zero,
    Nat.div_one]

/-- A significand with the exponent counted on from its last place: a carry out of the fraction moves the exponent. -/
theorem magnitudeOf_carry {E M : Nat} (hM : M ≤ 2 ^ 24) (hnormal : E = 0 ∨ 2 ^ 23 ≤ M) :
    magnitudeOf ((E * 2 ^ 23 + M) / 2 ^ 23) ((E * 2 ^ 23 + M) % 2 ^ 23) = M * lastPlace E := by
  obtain hsub | hnorm | rfl : M < 2 ^ 23 ∨ (2 ^ 23 ≤ M ∧ M < 2 ^ 24) ∨ M = 2 ^ 24 := by omega
  · obtain rfl : E = 0 := by omega
    rw [Nat.zero_mul, Nat.zero_add, Nat.div_eq_of_lt hsub, Nat.mod_eq_of_lt hsub, magnitudeOf]
  · have hexp : (E * 2 ^ 23 + M) / 2 ^ 23 = E + 1 := by omega
    have hfrac : 2 ^ 23 + (E * 2 ^ 23 + M) % 2 ^ 23 = M := by omega
    rw [hexp, magnitudeOf, hfrac]
  · have hexp : (E * 2 ^ 23 + 2 ^ 24) / 2 ^ 23 = (E + 1) + 1 := by omega
    have hfrac : (E * 2 ^ 23 + 2 ^ 24) % 2 ^ 23 = 0 := by omega
    rw [hexp, hfrac, magnitudeOf, lastPlace_succ]
    push_cast
    ring

/-! ## The grid of binary32 values -/

/-- An integer multiple of the last place of a magnitude with exponent `E − 126`, or below that binade. -/
def OnGrid (E : Nat) (v : ℝ) : Prop :=
  (∃ k : Int, v = k * lastPlace E) ∨ (E ≠ 0 ∧ |v| < 2 ^ 23 * lastPlace E)

theorem OnGrid.neg {E : Nat} {v : ℝ} (h : OnGrid E v) : OnGrid E (-v) := by
  obtain ⟨k, rfl⟩ | ⟨hE, hlt⟩ := h
  · exact .inl ⟨-k, by push_cast; ring⟩
  · exact .inr ⟨hE, by rwa [abs_neg]⟩

/-- A coarser last place is a multiple of a finer one; with a finer one, a significand of 24 bits stays below. -/
theorem onGrid_of_significand (E q : Nat) {c : Nat} (hc : c < 2 ^ 24) : OnGrid E (c * lastPlace q) := by
  by_cases hq : E ≤ q
  · refine .inl ⟨c * 2 ^ (q - E), ?_⟩
    rw [lastPlace_eq_of_le hq]
    push_cast
    ring
  · refine .inr ⟨by omega, ?_⟩
    have hc' : (c : ℝ) < 2 ^ 24 := by exact_mod_cast hc
    have hcoarser : lastPlace (q + 1) ≤ lastPlace E := lastPlace_mono (by omega)
    rw [lastPlace_succ] at hcoarser
    calc |c * lastPlace q|
        = c * lastPlace q := abs_of_nonneg (mul_nonneg c.cast_nonneg (lastPlace_pos q).le)
      _ < 2 ^ 24 * lastPlace q := mul_lt_mul_of_pos_right hc' (lastPlace_pos q)
      _ ≤ 2 ^ 23 * lastPlace E := by linarith

theorem onGrid_magnitudeOf (E exponent : Nat) {fraction : Nat} (h : fraction < 2 ^ 23) :
    OnGrid E (magnitudeOf exponent fraction) := by
  cases exponent with
  | zero => exact onGrid_of_significand E 0 (by omega)
  | succ q => exact onGrid_of_significand E q (by omega)

/-- Every word's value is on every magnitude's grid. -/
theorem onGrid_binary32Value (E : Nat) (w : Word) : OnGrid E (binary32Value w : ℝ) := by
  have h := onGrid_magnitudeOf E (w.toNat / 2 ^ 23 % 2 ^ 8) (Nat.mod_lt w.toNat (by decide : 0 < 2 ^ 23))
  rw [binary32Value_eq]
  split
  · exact h.neg
  · exact h

/-! ## What a magnitude is rounded to -/

section
variable {a : ℝ} {E M : Nat} (h : RoundsTo a E M)
include h

theorem RoundsTo.msb : (binary32 a).msb = false := by
  have hE := h.exponent_le
  have hM := h.significand_le
  rw [BitVec.msb_eq_decide, h.toNat, decide_eq_false_iff_not]
  omega

theorem RoundsTo.finite : binary32Finite (binary32 a) = true := by
  have hE := h.exponent_le
  have hM := h.significand_le
  rw [binary32Finite, decide_eq_true_iff, ne_eq, ← BitVec.toNat_inj, BitVec.extractLsb'_toNat,
    Nat.shiftRight_eq_div_pow, h.toNat]
  simp only [BitVec.toNat_ofNat]
  omega

theorem RoundsTo.value : (binary32Value (binary32 a) : ℝ) = M * lastPlace E := by
  have hE := h.exponent_le
  have hM := h.significand_le
  have hexp : (E * 2 ^ 23 + M) / 2 ^ 23 % 2 ^ 8 = (E * 2 ^ 23 + M) / 2 ^ 23 := Nat.mod_eq_of_lt (by omega)
  rw [binary32Value_eq, h.msb, if_neg Bool.false_ne_true, h.toNat, hexp,
    magnitudeOf_carry hM (h.normal.imp_right And.left)]

/-- The word's last bit is its significand's. -/
theorem RoundsTo.lastBit (heven : Even M) : (binary32 a).getLsbD 0 = false := by
  rw [Nat.even_iff] at heven
  rw [BitVec.getLsbD, h.toNat, Nat.testBit_zero, decide_eq_false_iff_not]
  omega

/-- Among the multiples of the last place, by the rounding. -/
theorem RoundsTo.le_multiple (k : Int) :
    |a - M * lastPlace E| ≤ |a - k * lastPlace E| ∧
      (|a - M * lastPlace E| = |a - k * lastPlace E| → (M : Int) = k ∨ Even M) := by
  have hplace := lastPlace_pos E
  have hdist (j : Int) : |a - j * lastPlace E| = |a / lastPlace E - j| * lastPlace E := by
    rw [← abs_of_pos hplace, ← abs_mul, abs_of_pos hplace, sub_mul, div_mul_cancel₀ a hplace.ne']
  obtain ⟨hle, heq⟩ := h.nearest.le k
  rw [← Int.cast_natCast M, hdist, hdist]
  exact ⟨mul_le_mul_of_nonneg_right hle hplace.le, fun h =>
    (heq (mul_right_cancel₀ hplace.ne' h)).imp_right (Int.even_coe_nat M).mp⟩

/-- Among the whole grid: what lies below the binade is further away than the binade's start, a multiple. -/
theorem RoundsTo.le_of_onGrid {v : ℝ} (hv : OnGrid E v) :
    |a - M * lastPlace E| ≤ |a - v| ∧
      (|a - M * lastPlace E| = |a - v| → M * lastPlace E = v ∨ Even M) := by
  obtain ⟨k, rfl⟩ | ⟨hE, hbelow⟩ := hv
  · obtain ⟨hle, heq⟩ := h.le_multiple k
    exact ⟨hle, fun h => (heq h).imp_left fun hk => by rw [← hk, Int.cast_natCast]⟩
  · obtain ⟨-, hbinade⟩ := h.normal.resolve_left hE
    obtain ⟨hle, -⟩ := h.le_multiple (2 ^ 23)
    rw [Int.cast_pow, Int.cast_ofNat, abs_of_nonneg (sub_nonneg.mpr hbinade)] at hle
    have hfar : a - 2 ^ 23 * lastPlace E < |a - v| := by
      have := le_abs_self v
      have := le_abs_self (a - v)
      linarith
    exact ⟨by linarith, fun heq => by linarith⟩

end

/-! ## The nearest word -/

/-- `b` is a finite word of a value nearest to `x`, and its last bit is 0 where another value is as near. -/
structure IsNearestWord (x : ℝ) (b : Word) : Prop where
  finite : binary32Finite b = true
  nearest : ∀ w : Word, binary32Finite w = true →
    |x - binary32Value b| ≤ |x - binary32Value w| ∧
    (|x - binary32Value b| = |x - binary32Value w| → (binary32Value b : ℝ) = binary32Value w ∨ b.getLsbD 0 = false)

theorem RoundsTo.isNearestWord {a : ℝ} {E M : Nat} (h : RoundsTo a E M) : IsNearestWord a (binary32 a) where
  finite := h.finite
  nearest w _ := by
    rw [h.value]
    obtain ⟨hle, heq⟩ := h.le_of_onGrid (onGrid_binary32Value E w)
    exact ⟨hle, fun h' => (heq h').imp_right h.lastBit⟩

/-! ## The sign -/

theorem flipSign_flipSign (w : Word) : 0x80000000 ^^^ (0x80000000 ^^^ w) = w :=
  (BitVec.xor_assoc _ _ _).symm.trans BitVec.zero_xor

theorem exponent_flipSign (w : Word) : (0x80000000 ^^^ w).extractLsb' 23 8 = w.extractLsb' 23 8 :=
  BitVec.extractLsb'_xor.trans (BitVec.zero_xor)

theorem fraction_flipSign (w : Word) : (0x80000000 ^^^ w).extractLsb' 0 23 = w.extractLsb' 0 23 :=
  BitVec.extractLsb'_xor.trans (BitVec.zero_xor)

theorem binary32Finite_flipSign (w : Word) : binary32Finite (0x80000000 ^^^ w) = binary32Finite w := by
  rw [binary32Finite, exponent_flipSign, binary32Finite]

theorem binary32Value_flipSign (w : Word) : (binary32Value (0x80000000 ^^^ w) : ℝ) = -binary32Value w := by
  have hmsb : (0x80000000 ^^^ w).msb = !w.msb := (BitVec.msb_xor).trans (Bool.true_xor _)
  simp only [binary32Value, exponent_flipSign, fraction_flipSign, hmsb]
  cases w.msb <;> simp

theorem lastBit_flipSign (w : Word) : (0x80000000 ^^^ w).getLsbD 0 = w.getLsbD 0 :=
  (BitVec.getLsbD_xor).trans (Bool.false_xor _)

/-- A clear sign bit is set by flipping it. -/
theorem setSign_eq_flipSign {w : Word} (h : w.msb = false) : 0x80000000 ||| w = 0x80000000 ^^^ w := by
  refine BitVec.eq_of_getLsbD_eq fun i hi => ?_
  rw [BitVec.getLsbD_or, BitVec.getLsbD_xor]
  obtain rfl | hlow : i = 31 ∨ i < 31 := by omega
  · have hclear : w.getLsbD 31 = false := h
    rw [hclear, Bool.or_false, Bool.xor_false]
  · have hzero : ∀ j < 31, (0x80000000 : Word).getLsbD j = false := by decide
    rw [hzero i hlow, Bool.false_or, Bool.false_xor]

theorem binary32_of_neg {x : ℝ} (hx : x < 0) : binary32 x = 0x80000000 ||| binary32 (-x) := by
  simp only [binary32, abs_neg, if_pos hx, if_neg (not_lt.mpr (neg_nonneg.mpr hx.le))]

theorem IsNearestWord.neg {x : ℝ} {b : Word} (h : IsNearestWord x b) : IsNearestWord (-x) (0x80000000 ^^^ b) where
  finite := by rw [binary32Finite_flipSign, h.finite]
  nearest w hw := by
    obtain ⟨u, rfl⟩ : ∃ u, w = 0x80000000 ^^^ u := ⟨0x80000000 ^^^ w, (flipSign_flipSign w).symm⟩
    rw [binary32Finite_flipSign] at hw
    have hdist (u : Word) : |-x - binary32Value (0x80000000 ^^^ u)| = |x - binary32Value u| := by
      rw [binary32Value_flipSign, neg_sub_neg, abs_sub_comm]
    rw [hdist, hdist, binary32Value_flipSign, binary32Value_flipSign, neg_inj, lastBit_flipSign]
    exact h.nearest u hw

theorem isNearestWord_binary32 {x : ℝ} (hlow : -1 ≤ x) (hhigh : x ≤ 1) : IsNearestWord x (binary32 x) := by
  obtain hx | hx := lt_or_ge x 0
  · obtain ⟨E, M, h⟩ := exists_roundsTo (a := -x) (by linarith) (by linarith)
    rw [binary32_of_neg hx, setSign_eq_flipSign h.msb]
    simpa using h.isNearestWord.neg
  · obtain ⟨E, M, h⟩ := exists_roundsTo hx hhigh
    exact h.isNearestWord

theorem binary32Value_one : (binary32Value 0x3F800000 : ℝ) = 1 := by
  have hmsb : (0x3F800000 : Word).msb = false := rfl
  have hfields : (0x3F800000 : Word).toNat = 126 * 2 ^ 23 + 2 ^ 23 := rfl
  rw [binary32Value_eq, hmsb, hfields]
  norm_num [magnitudeOf, lastPlace]

/-- The bounds −1 and 1 are binary32 values themselves, so no nearest value is outside. -/
theorem IsNearestWord.mem_Icc {x : ℝ} {b : Word} (h : IsNearestWord x b) (hlow : -1 ≤ x) (hhigh : x ≤ 1) :
    (binary32Value b : ℝ) ∈ Set.Icc (-1) 1 := by
  obtain ⟨hbelow, -⟩ := h.nearest 0x3F800000 (by decide)
  obtain ⟨habove, -⟩ := h.nearest (0x80000000 ^^^ 0x3F800000) (by decide)
  rw [binary32Value_one, abs_of_nonpos (sub_nonpos.mpr hhigh)] at hbelow
  rw [binary32Value_flipSign, binary32Value_one, abs_of_nonneg (sub_nonneg.mpr hlow)] at habove
  obtain ⟨hlower, -⟩ := abs_le.mp hbelow
  obtain ⟨-, hupper⟩ := abs_le.mp habove
  exact ⟨by linarith, by linarith⟩

/-- Settles O57: the magnitude's word is nearest on its grid, the sign is symmetric, and the bounds are values. -/
theorem sampleWordIsNearest : Obligations.SampleWordIsNearest := by
  unfold Obligations.SampleWordIsNearest
  intro x hlow hhigh
  have h := isNearestWord_binary32 hlow hhigh
  obtain ⟨hge, hle⟩ := h.mem_Icc hlow hhigh
  exact ⟨h.finite, hge, hle, h.nearest⟩

end Sys2Proof.Machine
end

section
/-! PROOF. The parameter and preset commands in READY (45_parameters_presets.md R181 to R186): the word of each, the
state it leaves and the word it answers. -/

namespace Sys2Proof.Machine

section
variable {E S : Type}

/-- An INIT with status 0 constructs the block and answers 0 (47_lifecycle.md R230). -/
theorem initEffect_of_status_zero (A : Arith E S) {channels : Byte} {rate : Half} (s : Block E S)
    (h : initStatus channels rate = 0) :
    initEffect A channels rate s = respond 0 { construct A s with life := .ready } := by
  obtain ⟨-, he⟩ | ⟨hne, -⟩ := initEffect_cases A channels rate s
  · exact he
  · exact absurd h hne

theorem loadPreset_presetIndex_known {p : Byte} (s : Block E S) (h : p.toNat < 5) :
    (loadPreset p s).presetIndex = p := by rw [loadPreset_known s h]

theorem loadPreset_params_known {p : Byte} (s : Block E S) (h : p.toNat < 5) :
    (loadPreset p s).params = Vector.ofFn (Config.presetTable ⟨p.toNat, h⟩) := by rw [loadPreset_known s h]

end

/-! ## Each command's state in READY -/

section
variable {s : State}

theorem exec_setp_ready (h : s.life = .ready) (index : Byte) (value : Half) :
    exec (.setp index value) s = .next ⟨setParam index value s.toBlock⟩ := exec_ready h

theorem exec_getp_ready (h : s.life = .ready) (index : Byte) :
    exec (.getp index) s = .next { s with rsp := s.rsp ++ [(getParam index s.toBlock).signExtend 32] } := exec_ready h

theorem exec_getstr_ready (h : s.life = .ready) (index : Byte) (value : Half) :
    exec (.getstr index value) s = .next { s with rsp := s.rsp ++ [paramStringId index value] } := exec_ready h

theorem exec_loadp_ready (h : s.life = .ready) (preset : Byte) :
    exec (.loadp preset) s = .next ⟨loadPreset preset s.toBlock⟩ := exec_ready h

theorem exec_getpi_ready (h : s.life = .ready) :
    exec .getpi s = .next { s with rsp := s.rsp ++ [BitVec.ofNat 32 s.presetIndex.toNat] } := by
  rw [BitVec.ofNat_toNat]
  exact exec_ready h

theorem exec_getpn_ready (h : s.life = .ready) (preset : Byte) :
    exec (.getpn preset) s = .next { s with rsp := s.rsp ++ [presetNameId preset] } := exec_ready h

end

/-- Settles O16: SETP is a register write, of a known or of an unknown index. -/
theorem setpStoresTheRawValue : Obligations.SetpStoresTheRawValue := by
  unfold Obligations.SetpStoresTheRawValue
  refine fun index value s hready => ⟨rfl, fun hknown => ?_, fun hunknown => ?_⟩
  · rw [exec_setp_ready hready, setParam_known _ value hknown]
  · rw [exec_setp_ready hready, setParam_unknown _ value hunknown.not_gt]

/-- Settles O17: GETP answers a register read, sign-extended. -/
theorem getpAnswersTheRawValue : Obligations.GetpAnswersTheRawValue := by
  unfold Obligations.GetpAnswersTheRawValue
  refine fun index s hready => ⟨rfl, fun hknown => ?_, fun hunknown => ?_⟩
  · rw [exec_getp_ready hready, signExtend_getParam, dif_pos hknown]
  · rw [exec_getp_ready hready, signExtend_getParam, dif_neg hunknown.not_gt]

/-- Settles O19: GETSTR answers the identifier, which is a function of the operands. -/
theorem getstrAnswersTheIdentifier : Obligations.GetstrAnswersTheIdentifier := by
  unfold Obligations.GetstrAnswersTheIdentifier
  refine fun index value s hready => ⟨rfl, ?_⟩
  rw [exec_getstr_ready hready, paramStringId_eq]

/-- Settles O20: LOADP of a known preset copies its row of the table; of another it is no write. -/
theorem loadpLoadsTheWholePreset : Obligations.LoadpLoadsTheWholePreset := by
  unfold Obligations.LoadpLoadsTheWholePreset
  refine fun preset s hready => ⟨rfl, fun hknown => ?_, fun hunknown => ?_⟩
  · refine ⟨_, exec_loadp_ready hready preset, fun i => ?_, loadPreset_presetIndex_known _ hknown, ?_⟩
    · simp [loadPreset_params_known _ hknown]
    · rw [loadPreset_known _ hknown]
  · rw [exec_loadp_ready hready, loadPreset_unknown _ hunknown.not_gt]

/-- Settles O22: INIT's construction leaves `preset_index` 0, LOADP writes it, and SETP keeps it. -/
theorem getpiAnswersTheLastPreset : Obligations.GetpiAnswersTheLastPreset := by
  unfold Obligations.GetpiAnswersTheLastPreset
  refine ⟨?_, fun s hready => ⟨rfl, exec_getpi_ready hready, fun preset index value hknown => ?_⟩⟩
  · have hinit : exec (.init 2 48000) State.reset =
        .next ⟨respond 0 { construct Arith.exact (Block.reset Arith.exact) with life := .ready }⟩ := by
      rw [exec_of_none rfl, stateEffect, commandEffect, initEffect_of_status_zero _ _ (by decide)]
      rfl
    exact ⟨_, _, hinit, exec_getpi_ready rfl, rfl⟩
  · have hload := exec_loadp_ready hready preset
    have hset := exec_setp_ready (s := ⟨loadPreset preset s.toBlock⟩) (by simpa using hready) index value
    refine ⟨_, _, _, hload, hset, exec_getpi_ready (by simpa using hready), ?_⟩
    simp [loadPreset_presetIndex_known _ hknown]

/-- Settles O23: GETPN answers the identifier, which is a function of the operand. -/
theorem getpnAnswersTheNameIdentifier : Obligations.GetpnAnswersTheNameIdentifier := by
  unfold Obligations.GetpnAnswersTheNameIdentifier
  refine fun preset s hready => ⟨rfl, ?_⟩
  rw [exec_getpn_ready hready, presetNameId_eq]

end Sys2Proof.Machine
end

section
/-! PROOF. One preset load after another (45_parameters_presets.md R184, R188): a known preset overwrites what the load
before it wrote. -/

namespace Sys2Proof.Machine

variable {E S : Type}

theorem loadPreset_loadPreset_known {p : Byte} (q : Byte) (s : Block E S) (h : p.toNat < 5) :
    loadPreset p (loadPreset q s) = loadPreset p s := by
  by_cases hq : q.toNat < 5
  · rw [loadPreset_known s hq, loadPreset_known _ h, loadPreset_known s h]
  · rw [loadPreset_unknown s hq]

theorem loadPreset_loadPreset_same (p : Byte) (s : Block E S) :
    loadPreset p (loadPreset p s) = loadPreset p s := by
  by_cases h : p.toNat < 5
  · exact loadPreset_loadPreset_known p s h
  · rw [loadPreset_unknown _ h]

/-- Settles O21: in READY a LOADP is a preset load and stays in READY, so the loads compose. -/
theorem presetLoadsAreIdempotent : Obligations.PresetLoadsAreIdempotent := by
  unfold Obligations.PresetLoadsAreIdempotent
  intro p q s hready
  have hready_p : (loadPreset p s.toBlock).life = .ready := (loadPreset_life _ p).trans hready
  have hready_pq : (loadPreset q (loadPreset p s.toBlock)).life = .ready := (loadPreset_life _ q).trans hready_p
  have hload := exec_loadp_ready hready p
  have hload_q := exec_loadp_ready (s := ⟨loadPreset p s.toBlock⟩) hready_p q
  have hload_pp := exec_loadp_ready (s := ⟨loadPreset p s.toBlock⟩) hready_p p
  have hload_pqp := exec_loadp_ready (s := ⟨loadPreset q (loadPreset p s.toBlock)⟩) hready_pq p
  refine ⟨⟨_, hload, ?_⟩, fun hknown => ⟨_, _, _, hload, hload_q, hload_pqp, ?_⟩⟩
  · rw [hload_pp, loadPreset_loadPreset_same]
  · rw [loadPreset_loadPreset_known q _ hknown, loadPreset_loadPreset_same]

end Sys2Proof.Machine
end

section
/-! PROOF. The parameter and preset commands and the engine part (the Voice State, the draw count, OUT): they neither
write it nor read it (45_parameters_presets.md R180). -/

namespace Sys2Proof.Machine

variable {E S : Type}

/-- The effect writes at most the parameters, `preset_index` and RSP, and the engine part decides nothing of it. -/
structure ActsBesideTheEngine (f : Block E S → Block E S) : Prop where
  frame : ∀ s, f s = { s with params := (f s).params, presetIndex := (f s).presetIndex, rsp := (f s).rsp }
  withEngine : ∀ s g, f (s.withEngine g) = (f s).withEngine g

theorem setParam_actsBesideTheEngine (index : Byte) (value : Half) :
    ActsBesideTheEngine (setParam index value : Block E S → Block E S) := by
  by_cases h : index.toNat < 22
  · rw [funext fun s => setParam_known s value h]
    exact ⟨fun _ => rfl, fun _ _ => rfl⟩
  · rw [show setParam index value = (id : Block E S → Block E S) from funext fun s => setParam_unknown s value h]
    exact ⟨fun _ => rfl, fun _ _ => rfl⟩

theorem loadPreset_actsBesideTheEngine (preset : Byte) :
    ActsBesideTheEngine (loadPreset preset : Block E S → Block E S) := by
  by_cases h : preset.toNat < 5
  · rw [funext fun s => loadPreset_known s h]
    exact ⟨fun _ => rfl, fun _ _ => rfl⟩
  · rw [show loadPreset preset = (id : Block E S → Block E S) from funext fun s => loadPreset_unknown s h]
    exact ⟨fun _ => rfl, fun _ _ => rfl⟩

/-- A response whose word the engine part does not decide. -/
theorem respond_actsBesideTheEngine {word : Block E S → Word} (h : ∀ s g, word (s.withEngine g) = word s) :
    ActsBesideTheEngine fun s => respond (word s) s :=
  ⟨fun _ => rfl, fun s g => by rw [h s g]; rfl⟩

theorem exec_of_actsBesideTheEngine {i : Instr} {s : State} (hready : s.life = .ready) (g : Engine ℚ Signal)
    (h : ActsBesideTheEngine (commandEffect Arith.exact drawSignal i)) :
    ∃ t, exec i s = .next t ∧ t = { s with params := t.params, presetIndex := t.presetIndex, rsp := t.rsp } ∧
      exec i (s.withEngine g) = .next (t.withEngine g) := by
  refine ⟨stateEffect i s, exec_ready hready, congrArg State.mk (h.frame s.toBlock), ?_⟩
  rw [exec_ready (s := s.withEngine g) hready, stateEffect, State.withEngine_toBlock, h.withEngine]
  rfl

/-- Settles O24: each of the six effects is a register write, a preset load or a response beside the engine part. -/
theorem parameterCommandsIgnoreTheVoice : Obligations.ParameterCommandsIgnoreTheVoice := by
  unfold Obligations.ParameterCommandsIgnoreTheVoice
  intro i s v n o hready hi
  refine exec_of_actsBesideTheEngine hready ⟨v, n, o⟩ ?_
  obtain ⟨a, x, rfl⟩ | ⟨a, rfl⟩ | ⟨a, x, rfl⟩ | ⟨p, rfl⟩ | rfl | ⟨p, rfl⟩ := hi
  · exact setParam_actsBesideTheEngine a x
  · exact respond_actsBesideTheEngine fun _ _ => rfl
  · exact respond_actsBesideTheEngine fun _ _ => rfl
  · exact loadPreset_actsBesideTheEngine p
  · exact respond_actsBesideTheEngine fun _ _ => rfl
  · exact respond_actsBesideTheEngine fun _ _ => rfl

end Sys2Proof.Machine
end

section
/-! PROOF. The note events in READY (46_note_events.md R210 to R216): the word of each, what NOTEON and NOTEOFF write,
and that the other three write nothing. -/

namespace Sys2Proof.Machine

/-! ## The words (30_encoding.md R61, R68) -/

/-- An 8-bit operand in `IMM[7:0]` stands after a zero byte. -/
theorem formatC_lowImm (opc a b : Byte) : formatC opc a (lowImm b) = opc ++ a ++ 0#8 ++ b :=
  BitVec.append_assoc'.trans (BitVec.cast_eq _ _)

/-! ## The commands in READY -/

section
variable {s : State}

theorem exec_noteon_ready (h : s.life = .ready) (note velocity : Byte) :
    exec (.noteon note velocity) s = .next ⟨trigger Arith.exact note velocity s.toBlock⟩ := exec_ready h

theorem exec_noteoff_ready (h : s.life = .ready) (note : Byte) :
    exec (.noteoff note) s = .next ⟨releaseNote note s.toBlock⟩ := exec_ready h

end

section
variable {E S : Type} {s : Block E S}

/-- In exact arithmetic the velocity is the byte over 127 (R210). -/
theorem velocityOf_exact (b : Byte) : velocityOf Arith.exact b = (b.toNat : ℚ) / 127 := rfl

/-- NOTEOFF has no effect on a note that does not match, nor in Release or Idle (R212, R213). -/
theorem releaseNote_eq_self {note : Byte}
    (h : ¬ (note = s.voice.currentNote ∨ note = 255) ∨ s.voice.envPhase = .release ∨ s.voice.envPhase = .idle) :
    releaseNote note s = s := by
  obtain ⟨hmatch, hphase, -⟩ | hsame := releaseNote_cases (s := s) note
  · rw [noteMatches_iff] at hmatch
    rw [releasable_iff] at hphase
    obtain hother | hrelease | hidle := h
    · exact absurd hmatch hother
    · simp [hrelease] at hphase
    · simp [hidle] at hphase
  · exact hsame

end

/-- Settles O25: NOTEON is the trigger, at the exact velocity. -/
theorem noteonTriggersTheVoice : Obligations.NoteonTriggersTheVoice := by
  unfold Obligations.NoteonTriggersTheVoice
  refine fun note velocity s hready => ⟨formatC_lowImm _ note velocity, ?_⟩
  rw [exec_noteon_ready hready, trigger, velocityOf_exact]
  rfl

/-- Settles O26: NOTEOFF releases a matching note in Attack or Decay, and is no write in every other case. -/
theorem noteoffReleasesAMatchingNote : Obligations.NoteoffReleasesAMatchingNote := by
  unfold Obligations.NoteoffReleasesAMatchingNote
  intro note s hready
  have hwildcard : note.toNat = 255 ↔ note = 255 := BitVec.toNat_inj (y := 255)
  rw [hwildcard]
  refine ⟨rfl, fun hmatch hphase => exec_noteoff_of_matches hready hmatch hphase, fun hnone => ?_⟩
  rw [exec_noteoff_ready hready, releaseNote_eq_self hnone]

/-- Settles O27: the effect of each of the three on the state is the identity. -/
theorem ignoredEventsDoNothing : Obligations.IgnoredEventsDoNothing := by
  unfold Obligations.IgnoredEventsDoNothing
  intro bend note pressure s hready
  have hzero : (0x23#8 ++ 0#8 ++ 0#8 : BitVec 24) = 0x23#8 ++ 0#16 := by decide
  refine ⟨⟨rfl, ?_, formatC_lowImm _ note pressure⟩, exec_ready hready, exec_ready hready, exec_ready hready⟩
  exact (formatC_lowImm _ 0 pressure).trans (congrArg (· ++ pressure) hzero)

end Sys2Proof.Machine
end

section
/-! PROOF. The lifecycle (47_lifecycle.md R230 to R236), the fault state (60_exceptions.md R250) and power-on
(70_reset_and_hazards.md R280, R281): INIT's three outcomes, the commands that reset or do nothing, a fault raised. -/

namespace Sys2Proof.Machine

open Sys2Proof.Claims

/-- In exact arithmetic the Voice State's zero is the reset column (10_state.md R20). -/
theorem zero_exact : VoiceState.zero Arith.exact = zeroVoice := rfl

/-! ## INIT's status word, the sample rate tested first (R230, R231) -/

theorem initStatus_eq_toNat (channels : Byte) (rate : Half) :
    initStatus channels rate = if rate.toNat ≠ 48000 then 1 else if channels.toNat ≠ 2 then 2 else 0 := by
  have hrate : rate.toNat = 48000 ↔ rate = initRate := BitVec.toNat_inj (y := initRate)
  have hchannels : channels.toNat = 2 ↔ channels = initChannels := BitVec.toNat_inj (y := initChannels)
  simp only [initStatus, ne_eq, hrate, hchannels]

/-! ## INIT outside FAILED -/

/-- An INIT with a status other than 0 answers it and ends FAILED, with no other write (R230). -/
theorem initEffect_of_status_ne_zero {E S : Type} (A : Arith E S) {channels : Byte} {rate : Half} (s : Block E S)
    (h : initStatus channels rate ≠ 0) :
    initEffect A channels rate s = respond (initStatus channels rate) { s with life := .failed } := by
  obtain ⟨hzero, -⟩ | ⟨-, he⟩ := initEffect_cases A channels rate s
  · exact absurd hzero h
  · exact he

/-- INIT is accepted everywhere but in FAILED (30_encoding.md R66). -/
theorem exec_init {s : State} (h : s.life ≠ .failed) (channels : Byte) (rate : Half) :
    exec (.init channels rate) s = .next ⟨initEffect Arith.exact channels rate s.toBlock⟩ := by
  refine exec_of_none (lifecycleFault_of_accepted ?_)
  cases hlife : s.life with
  | uninit => exact .inr ⟨rfl, channels, rate, rfl⟩
  | ready => exact .inl rfl
  | failed => exact absurd hlife h

theorem exec_init_rejected {s : State} {channels : Byte} {rate : Half} {status : Word} (h : s.life ≠ .failed)
    (hstatus : initStatus channels rate = status) (hne : status ≠ 0) :
    exec (.init channels rate) s = .next { s with life := .failed, rsp := s.rsp ++ [status] } := by
  subst hstatus
  rw [exec_init h, initEffect_of_status_ne_zero _ _ hne]
  rfl

/-- Settles O13: the operands fix the status word, and the status word the effect. -/
theorem initValidatesAndConstructs : Obligations.InitValidatesAndConstructs := by
  unfold Obligations.InitValidatesAndConstructs
  refine fun channels rate s hlife => ⟨rfl, fun hrate => ?_, fun hrate hchannels => ?_, fun hrate hchannels => ?_⟩
  · exact exec_init_rejected hlife (by rw [initStatus_eq_toNat, if_pos hrate]) (by decide)
  · exact exec_init_rejected hlife (by rw [initStatus_eq_toNat, if_neg (not_not.mpr hrate), if_pos hchannels])
      (by decide)
  · have hstatus : initStatus channels rate = 0 := by
      rw [initStatus_eq_toNat, if_neg (not_not.mpr hrate), if_neg (not_not.mpr hchannels)]
    rw [exec_init hlife, initEffect_of_status_zero _ _ hstatus]
    rfl

/-! ## RESET and the three hooks -/

/-- Settles O14: RESET's own effect writes the Voice State's zero. -/
theorem resetZeroesTheVoiceState : Obligations.ResetZeroesTheVoiceState := by
  unfold Obligations.ResetZeroesTheVoiceState
  intro s hready
  rw [← zero_exact]
  exact ⟨rfl, exec_ready hready⟩

/-- Settles O15: the effect of each of the three on the state is the identity. -/
theorem lifecycleHooksDoNothing : Obligations.LifecycleHooksDoNothing := by
  unfold Obligations.LifecycleHooksDoNothing
  exact fun s hready => ⟨⟨rfl, rfl, rfl⟩, exec_ready hready, exec_ready hready, exec_ready hready⟩

/-! ## The fault state and power-on -/

/-- Settles O10: a lifecycle fault is `exec`'s, an illegal word and a held fault are `step`'s; power-on writes
`fault` and `life`. -/
theorem faultIsPreciseAndSticky : Obligations.FaultIsPreciseAndSticky := by
  unfold Obligations.FaultIsPreciseAndSticky
  refine ⟨fun i s _ hfailed => ?_, fun i s _ huninit hother => ?_, illegalWordRaisesIllegalCommand.2,
    fun s c hfault => step_stuck hfault, fun s => ⟨Block.powerOn_fault _ _, Block.powerOn_life _ _⟩⟩
  · exact exec_of_some (by rw [hfailed, lifecycleFault_failed])
  · exact exec_of_some (by rw [huninit, lifecycleFault_of_not_init hother])

/-- Settles O12: power-on and reset are both the constructed block, which holds no fault and no word to run. -/
theorem powerOnState : Obligations.PowerOnState := by
  unfold Obligations.PowerOnState
  exact ⟨fun _ => rfl, zero_exact, rfl, rfl, rfl, rfl, rfl, rfl, rfl, rfl, step_waits rfl rfl⟩

end Sys2Proof.Machine
end

section
/-! PROOF. Negative times (70_reset_and_hazards.md R288): the rate is negative, so Attack steps down from 0 and Decay
and Release step up from 1, and the clamp undoes the step in every frame. -/

namespace Sys2Proof.Machine

open Sys2Proof.Claims

theorem rateOf_neg {m : ℚ} (h : m < 0) : rateOf m < 0 :=
  div_neg_of_pos_of_neg (by norm_num) (mul_neg_of_neg_of_pos h (by norm_num))

/-- The amplitude machine stands in phase `p` at amplitude `a`. -/
structure HeldAt (p : EnvPhase) (a : ℚ) (v : Voice) : Prop where
  envPhase : v.envPhase = p
  ampEnv : v.ampEnv = a

theorem HeldAt.attack {P : ParamSet} (hneg : (rawInt P .attack : ℚ) < 0) {v : Voice} (h : HeldAt .attack 0 v) :
    HeldAt .attack 0 (envelopeStage Arith.exact P v) := by
  obtain ⟨hamp, hphase⟩ := envelopeStage_attack_of_ne_zero h.envPhase hneg.ne
  have hrate := rateOf_neg hneg
  rw [h.ampEnv, zero_add] at hamp hphase
  exact ⟨hphase.trans (if_neg (by linarith)), hamp.trans (clamped_of_nonpos hrate.le)⟩

theorem HeldAt.fall {P : ParamSet} (hneg : (rawInt P .release : ℚ) < 0) {p : EnvPhase}
    (hp : p = .decay ∨ p = .release) {v : Voice} (h : HeldAt p 1 v) :
    HeldAt p 1 (envelopeStage Arith.exact P v) := by
  obtain ⟨hamp, hphase⟩ := envelopeStage_fall_of_ne_zero (h.envPhase.symm ▸ hp) hneg.ne
  have hrate := rateOf_neg hneg
  rw [h.ampEnv] at hamp hphase
  rw [if_neg (by linarith), h.envPhase] at hphase
  exact ⟨hphase, hamp.trans (clamped_of_one_le (by linarith))⟩

/-- Where stage 1 holds the amplitude machine, a RENDER of any count does. -/
theorem exists_exec_render_heldAt {s : State} {p : EnvPhase} {a : ℚ} (n : Half) (hready : s.life = .ready)
    (hstage : ∀ {v : Voice}, HeldAt p a v → HeldAt p a (envelopeStage Arith.exact s.params v))
    (hstart : HeldAt p a s.voice) :
    ∃ t, exec (.render n) s = .next t ∧ t.voice.envPhase = p ∧ t.voice.ampEnv = a := by
  have hframes : HeldAt p a (frames Arith.exact drawSignal s.params n.toNat s.engine).voice :=
    frames_induction Arith.exact drawSignal s.params (I := fun g => HeldAt p a g.voice)
      (fun _ hg => ⟨(hstage hg).envPhase, (hstage hg).ampEnv⟩) n.toNat s.engine hstart
  exact ⟨_, exec_ready hready, hframes.envPhase, hframes.ampEnv⟩

/-- Settles O37: stage 1 holds Attack at 0, and Decay and Release at 1. -/
theorem negativeTimesHoldTheEnvelope : Obligations.NegativeTimesHoldTheEnvelope := by
  unfold Obligations.NegativeTimesHoldTheEnvelope
  refine fun s n hready => ⟨fun hphase hamp hneg => ?_, fun hphase hamp hneg => ?_⟩
  · exact exists_exec_render_heldAt n hready (HeldAt.attack hneg) ⟨hphase, hamp⟩
  · exact exists_exec_render_heldAt n hready (HeldAt.fall hneg hphase) ⟨rfl, hamp⟩

end Sys2Proof.Machine
end
